-- ==== Sys2Proof/Word.lean ====
section
/-! DEFINITION. The word, byte and register-number types of the block (spec/00_scope.md R6, R7, R9). -/

namespace Sys2Proof

/-- A register, a memory word, an address or an instruction word: 16 bits, bit 0 least significant, arithmetic modulo 65536
(00_scope.md R6, R7, R9, R12). -/
abbrev Word := BitVec 16

/-- A byte of the I/O port or of the program image (20_memory.md R49, R50). -/
abbrev Byte := BitVec 8

/-- The number of a general register, 0 to 7 (10_state.md R19, 30_encoding.md R78). -/
abbrev Reg := Fin 8

end Sys2Proof
end

