-- ==== Sys2Proof/Config.lean ====
section
/-! DEFINITION. The parameters of the block (spec/00_scope.md R6): what an implementation fixes, with the defaults the spec chose.
There is no free value without a body here: the spec leaves no result of an instruction open (the input oracle is data of State). -/

namespace Sys2Proof

/-- TOP_GUARD (00_scope.md R6, 40_sequencer.md R99): `atFFFF` halts a step that begins with PC = 0xFFFF, `off` is the spec's NONE. -/
inductive TopGuard
  | atFFFF
  | off
  deriving DecidableEq, Repr

/-- The parameters of 00_scope.md R6, fixed for a run. They are held in State so that every statement about a state holds for
every value of them (notes/assumptions/3.md). COND_RESET is a whole word, so that the non-default 0x0000 which 42_control.md R115
speaks of is covered as well (notes/assumptions/4.md). -/
structure Params where
  /-- START_PC, the PC after reset (D5). -/
  startPc : Word
  /-- COND_RESET, the COND word after reset (D4). -/
  condReset : Word
  /-- TOP_GUARD (D6). -/
  topGuard : TopGuard
  /-- IN_PROMPT, the bytes IN writes before it reads (D14). -/
  inPrompt : List Byte
  deriving DecidableEq, Repr

/-- The defaults of 00_scope.md R6: START_PC 0x3000, COND_RESET ZERO (0x0002), TOP_GUARD AT_FFFF, IN_PROMPT empty. -/
def Params.default : Params :=
  { startPc := 0x3000#16, condReset := 0x0002#16, topGuard := .atFFFF, inPrompt := [] }

end Sys2Proof
end

