-- ==== Sys2Proof/Machine/State.lean ====
section
/-! DEFINITION. The state of the block (spec/10_state.md; the collected list with reset values is spec/70_reset_and_hazards.md R167),
the reasons a step can stop, and the state after reset. Plain data throughout. -/

namespace Sys2Proof.Machine

/-- One word of memory at an address. The spec's smallest addressable unit is the 16-bit word (20_memory.md R44: "There is no byte
address and no sub-word access"), so a cell holds a word (notes/assumptions/1.md). -/
abbrev Cell := Nat × Word

/-- The memory of 65536 words (10_state.md R34): the cells that do not hold 0x0000, at strictly rising addresses. An address with no
cell reads as 0x0000, since memory is zero-initialized (70_reset_and_hazards.md R164). `Memory.wf` in Machine/Ops.lean is the form. -/
structure Memory where
  cells : List Cell
  deriving DecidableEq, Repr

/-- The sequencer's run state (10_state.md R35, 40_sequencer.md R95). -/
inductive RunState
  | running
  | halted
  | faulted
  deriving DecidableEq, Repr

/-- The fault causes (60_exceptions.md R144). `regIndex` is listed by the spec and raised by nothing (R147). -/
inductive FaultCause
  | none
  | res
  | rti
  | trapUnknown
  | regIndex
  deriving DecidableEq, Repr

/-- The fault record (10_state.md R36): fault_cause, fault_pc, fault_word. -/
structure FaultRecord where
  cause : FaultCause
  pc : Word
  word : Word
  deriving DecidableEq, Repr

/-- An event on the I/O port (10_state.md R40, 44_trap.md R139): a ReadByte answered with a byte, a WriteByte, a Flush. -/
inductive IoEvent
  | read (b : Byte)
  | write (b : Byte)
  | flush
  deriving DecidableEq, Repr

/-- The routines that call ReadByte: GETC (44_trap.md R131) and IN (R134). -/
inductive ReadRoutine
  | getc
  | inEcho
  deriving DecidableEq, Repr

/-- The routines that write a string: PUTS, one character a word (44_trap.md R133), and PUTSP, two (R135). -/
inductive StringFormat
  | puts
  | putsp
  deriving DecidableEq, Repr

/-- The model's own field: where inside a TRAP routine the block is between two steps of the model. `idle` is the spec's "between
instructions". `awaitingByte` is the block waiting in ReadByte (00_scope.md R16, 70_reset_and_hazards.md R176); `writingString` is
a PUTS or PUTSP that has found no 0x0000 word in the whole of memory (40_sequencer.md R106). See notes/assumptions/6.md and 7.md. -/
inductive Activity
  | idle
  | awaitingByte (r : ReadRoutine)
  | writingString (f : StringFormat) (a : Word)
  deriving DecidableEq, Repr

/-- All the state the spec gives the block, its parameters, and two fields of the model's own (input, activity). -/
structure State where
  /-- R0 to R7 (10_state.md R19). -/
  regs : Vector Word 8
  /-- The program counter (10_state.md R23). -/
  pc : Word
  /-- The condition-code register, a 16-bit slot (10_state.md R27). -/
  cond : Word
  /-- The instruction word of the step in progress (10_state.md R37); 0x0000 between instructions (notes/assumptions/8.md). -/
  ir : Word
  /-- Memory (10_state.md R34). -/
  mem : Memory
  /-- RUNNING, HALTED or FAULTED (10_state.md R35). -/
  runState : RunState
  /-- The fault record (10_state.md R36). -/
  fault : FaultRecord
  /-- The I/O events so far, oldest first (44_trap.md R139). -/
  trace : List IoEvent
  /-- The bytes the host's input has supplied and ReadByte has not yet taken, in order (00_scope.md R6 INPUT, D15). -/
  input : List Byte
  /-- Where inside a routine the block is (the model's own). -/
  activity : Activity
  /-- The parameters (00_scope.md R6); no step changes them. -/
  params : Params
  deriving DecidableEq, Repr

/-- Why `step` gives no next state. No instruction raises one of these: they say that no step exists at all, because the run has
ended (40_sequencer.md R97, R105). Both are safe: the hardware does nothing further either. -/
inductive Fault
  /-- Raised by `step` alone, in run state HALTED. Safe: "HALTED is terminal" (40_sequencer.md R105). -/
  | halted
  /-- Raised by `step` alone, in run state FAULTED. Safe: "FAULTED is terminal too" (10_state.md R35). -/
  | faulted
  deriving DecidableEq, Repr

/-- Why an instruction has no meaning in the model. -/
inductive Refusal
  /-- Raised by `exec` for an instruction the model gives no meaning; no arm of `exec` does so. Safe. -/
  | notModelled (mnemonic : String)
  deriving DecidableEq, Repr

/-- The reset state for given parameters and launch memory (70_reset_and_hazards.md R167). The spec leaves fault_pc and fault_word
unspecified and gives IR no value: 0x0000 each (DESIGN CHOICE, notes/assumptions/8.md and 9.md). No input has been supplied
(DESIGN CHOICE, notes/assumptions/5.md). -/
def State.launched (p : Params) (m : Memory) : State :=
  { regs := Vector.replicate 8 0#16
    pc := p.startPc
    cond := p.condReset
    ir := 0#16
    mem := m
    runState := .running
    fault := { cause := .none, pc := 0#16, word := 0#16 }
    trace := []
    input := []
    activity := .idle
    params := p }

/-- The machine right after reset with the default parameters (00_scope.md R6) and no image loaded: every word of memory is 0x0000
(70_reset_and_hazards.md R164). -/
def State.reset : State := State.launched Params.default { cells := [] }

end Sys2Proof.Machine
end

