-- ==== Sys2Proof/Machine/Operands.lean ====
section
/-! DEFINITION. Operand forms: sign and zero extension (spec/00_scope.md R10, R11, spec/40_sequencer.md R90), immediates
(spec/30_encoding.md R76), effective addresses (spec/40_sequencer.md R89), BR's condition mask (spec/30_encoding.md R67). -/

namespace Sys2Proof.Machine

/-- An N-bit field as a sign-extended word (30_encoding.md R76). -/
def sextField {n : Nat} (f : BitVec n) : Word := f.signExtend 16

/-- The sign-extension unit: `sext_N` of a word reads its low N bits only (00_scope.md R10, 40_sequencer.md R90). -/
def sext (n : Nat) (v : Word) : Word := sextField (v.setWidth n)

/-- A byte zero-extended to a word, `zext_8` (00_scope.md R11). -/
def zextByte (b : Byte) : Word := b.setWidth 16

/-- Bits 7:0 of a word (20_memory.md R50). -/
def lowByte (w : Word) : Byte := w.extractLsb' 0 8

/-- Bits 15:8 of a word (20_memory.md R50). -/
def highByte (w : Word) : Byte := w.extractLsb' 8 8

/-- The address adder `ea_add` (40_sequencer.md R89, 20_memory.md R45): it wraps modulo 65536 and never faults. -/
def eaAdd (base off : Word) : Word := base + off

/-- The ALU's add (40_sequencer.md R89). -/
def aluAdd (a b : Word) : Word := a + b

/-- The ALU's bitwise AND (40_sequencer.md R89). -/
def aluAnd (a b : Word) : Word := a &&& b

/-- The ALU's complement (40_sequencer.md R89). -/
def aluNot (a : Word) : Word := ~~~a

/-- BR's three bits read as `n*4 + z*2 + p` (30_encoding.md R67). -/
def condMask (n z p : Bool) : Word :=
  (BitVec.ofBool n ++ BitVec.ofBool z ++ BitVec.ofBool p).setWidth 16

/-- The PC-relative address `PC + sext_N(PCoffset)`; PC is the post-increment PC (10_state.md R23). -/
def State.pcRelative (s : State) {n : Nat} (off : BitVec n) : Word := eaAdd s.pc (sextField off)

end Sys2Proof.Machine
end

