-- ==== Sys2Proof/Machine/Ops.lean ====
section
/-! DEFINITION. The named operations over memory, registers, the I/O port and the run state, which every meaning is built from; among
them raising a fault, as one shared operation (spec/60_exceptions.md R145). There is no return from a fault beside it: the spec
gives none (R146, R152). -/

namespace Sys2Proof.Machine

/-! ## Memory (20_memory.md R46, R47) -/

/-- The word a list of cells holds at an address; 0x0000 where none is listed (70_reset_and_hazards.md R164). -/
def lookupCell : List Cell → Nat → Word
  | [], _ => 0#16
  | (b, u) :: rest, a => if a = b then u else lookupCell rest a

/-- A cell put before the first cell of a higher address. -/
def addCell : List Cell → Nat → Word → List Cell
  | [], a, v => [(a, v)]
  | (b, u) :: rest, a, v => if a < b then (a, v) :: (b, u) :: rest else (b, u) :: addCell rest a v

/-- The cells after a write: whatever the address held is gone, and the value stands there unless it is 0x0000, which an unlisted
address reads as. -/
def setCell (cells : List Cell) (a : Nat) (v : Word) : List Cell :=
  let others := cells.filter (fun c => c.1 != a)
  if v = 0#16 then others else addCell others a v

/-- The canonical form: strictly rising addresses below 65536, no cell holding what an unlisted address reads as. -/
abbrev Memory.wf (m : Memory) : Prop :=
  m.cells.Pairwise (fun c d => c.1 < d.1) ∧ ∀ c ∈ m.cells, c.1 < 65536 ∧ c.2 ≠ 0#16

/-- MemRead(a, 1): every address can be read and a read changes nothing (20_memory.md R46). -/
def Memory.read (m : Memory) (a : Word) : Word := lookupCell m.cells a.toNat

/-- MemWrite(a, 1, v): every address can be written (20_memory.md R47). -/
def Memory.write (m : Memory) (a : Word) (v : Word) : Memory := { cells := setCell m.cells a.toNat v }

/-- `M[a] <- v` (00_scope.md R14). -/
def State.storeWord (s : State) (a v : Word) : State := { s with mem := s.mem.write a v }

/-! ## Registers (40_sequencer.md R87) -/

/-- `x[i]` (00_scope.md R13). -/
def State.reg (s : State) (i : Reg) : Word := s.regs[i]

/-- `x[i] <- v` (00_scope.md R13); no register is hardwired (10_state.md R19). -/
def State.writeReg (s : State) (i : Reg) (v : Word) : State := { s with regs := s.regs.set i v }

/-- `PC <- v` (00_scope.md R13); every value is a legal target (10_state.md R25). -/
def State.jumpTo (s : State) (target : Word) : State := { s with pc := target }

/-- The link write of JSR, JSRR and TRAP: `x[7] <- PC`, the post-increment PC (10_state.md R21). -/
def State.link (s : State) : State := s.writeReg 7 s.pc

/-! ## The I/O port (10_state.md R40) -/

/-- An I/O event is appended to the trace in execution order (44_trap.md R139). -/
def State.emit (s : State) (e : IoEvent) : State := { s with trace := s.trace ++ [e] }

/-- WriteByte for each byte in turn. -/
def State.writeBytes (s : State) (bs : List Byte) : State := { s with trace := s.trace ++ bs.map .write }

/-- The host's answer to a ReadByte: the next byte of its input, taken once (D15). -/
def State.takeByte (s : State) (b : Byte) (rest : List Byte) : State :=
  { s with input := rest, trace := s.trace ++ [.read b], activity := .idle }

/-- The block waits inside the routine until the host answers (00_scope.md R16, 44_trap.md R131, R134). -/
def State.await (s : State) (r : ReadRoutine) : State := { s with activity := .awaitingByte r }

/-! ## Run state -/

/-- `halt()`: the run state becomes HALTED (00_scope.md R15). -/
def State.halt (s : State) : State := { s with runState := .halted }

/-- `raise Fault(cause, {pc: PC - 1, word: instr})` (60_exceptions.md R145): the run state becomes FAULTED and the record holds the cause,
the address the instruction was fetched from (the post-increment PC less one) and the instruction word, which IR holds. The
instruction's earlier effects stand; nothing after happens. -/
def State.raiseFault (s : State) (cause : FaultCause) : State :=
  { s with runState := .faulted, fault := { cause := cause, pc := s.pc - 1#16, word := s.ir } }

/-- The codes of the causes (60_exceptions.md R144). -/
def FaultCause.code : FaultCause → Nat
  | .none => 0
  | .res => 1
  | .rti => 2
  | .trapUnknown => 3
  | .regIndex => 4

end Sys2Proof.Machine
end

