-- ==== Sys2Proof/Machine/Flags.lean ====
section
/-! DEFINITION. The condition flag: its three values, the flag unit setcc (spec/40_sequencer.md R91) and BR's test
(spec/42_control.md R115). The block has no other flag (spec/10_state.md R31). -/

namespace Sys2Proof.Machine

/-- The three-way classification (10_state.md R27). -/
inductive Flag
  | neg
  | zero
  | pos
  deriving DecidableEq, Repr

/-- NEG = 0x0004, ZERO = 0x0002, POS = 0x0001 (10_state.md R27, D3). -/
def Flag.word : Flag → Word
  | .neg => 0x0004#16
  | .zero => 0x0002#16
  | .pos => 0x0001#16

/-- ZERO if the value is 0x0000, NEG if bit 15 is set, POS otherwise (40_sequencer.md R91). -/
def classify (v : Word) : Flag :=
  if v = 0#16 then .zero else if v.getLsbD 15 then .neg else .pos

/-- `setcc(v)`, the only writer of COND (40_sequencer.md R91, 10_state.md R29). -/
def State.setcc (s : State) (v : Word) : State := { s with cond := (classify v).word }

/-- `x[DR] <- v` and then `setcc(x[DR])`: the flag comes from the register read back after the write (40_sequencer.md R91). -/
def State.writeDest (s : State) (dr : Reg) (v : Word) : State :=
  let s' := s.writeReg dr v
  s'.setcc (s'.reg dr)

/-- `(instr[11:9] & COND) != 0` (42_control.md R115); the only reader of COND (10_state.md R28). -/
def State.branchTaken (s : State) (n z p : Bool) : Bool := (condMask n z p &&& s.cond) != 0#16

end Sys2Proof.Machine
end

