-- ==== Sys2Proof/Machine/Control.lean ====
section
/-! DEFINITION. Control transfer: BR, JMP, RET, JSR, JSRR (spec/42_control.md R115 to R118). `s.pc` is the post-increment PC. -/

namespace Sys2Proof.Machine

/-- BR (42_control.md R115). -/
def execBr (n z p : Bool) (off : BitVec 9) (s : State) : Host.Outcome State Fault Refusal :=
  .next (if s.branchTaken n z p then s.jumpTo (s.pcRelative off) else s)

/-- JMP (42_control.md R116). -/
def execJmp (base : Reg) (s : State) : Host.Outcome State Fault Refusal :=
  .next (s.jumpTo (s.reg base))

/-- RET is JMP with BaseR = 7 (42_control.md R116). -/
def execRet (s : State) : Host.Outcome State Fault Refusal :=
  .next (s.jumpTo (s.reg 7))

/-- JSR: the link is written first, unconditionally (42_control.md R117). -/
def execJsr (off : BitVec 11) (s : State) : Host.Outcome State Fault Refusal :=
  .next (s.link.jumpTo (s.pcRelative off))

/-- JSRR: the base register is read after the link write, so JSRR R7 continues at the next instruction (42_control.md R118). -/
def execJsrr (base : Reg) (s : State) : Host.Outcome State Fault Refusal :=
  let linked := s.link
  .next (linked.jumpTo (linked.reg base))

end Sys2Proof.Machine
end

