-- ==== Sys2Proof/Machine/LoadStore.lean ====
section
/-! DEFINITION. Loads, LEA and stores (spec/43_load_store.md R121 to R127). `s.pc` is the post-increment PC. -/

namespace Sys2Proof.Machine

/-- `x[BaseR] + sext_6(offset6)`, the address of LDR and STR (43_load_store.md R123, R127). -/
def State.baseOffset (s : State) (base : Reg) (off : BitVec 6) : Word := eaAdd (s.reg base) (sextField off)

/-- The pointer of LDI and STI: the word at the PC-relative address (43_load_store.md R122, R126). -/
def State.pointerAt (s : State) (off : BitVec 9) : Word := s.mem.read (s.pcRelative off)

/-- LD (43_load_store.md R121). R121's corner case "an LD at 0xFFF0 with offset +255 reads 0x00EF" disagrees with its own pseudocode,
which from the post-increment PC 0xFFF1 gives 0x00F0. DEDUCED: the pseudocode is followed (notes/assumptions/21.md). -/
def execLd (dr : Reg) (off : BitVec 9) (s : State) : Host.Outcome State Fault Refusal :=
  .next (s.writeDest dr (s.mem.read (s.pcRelative off)))

/-- LDI: two reads, the pointer and then the word it names (43_load_store.md R122). -/
def execLdi (dr : Reg) (off : BitVec 9) (s : State) : Host.Outcome State Fault Refusal :=
  .next (s.writeDest dr (s.mem.read (s.pointerAt off)))

/-- LDR (43_load_store.md R123). -/
def execLdr (dr base : Reg) (off : BitVec 6) (s : State) : Host.Outcome State Fault Refusal :=
  .next (s.writeDest dr (s.mem.read (s.baseOffset base off)))

/-- LEA: no memory access, and the flags come from the address (43_load_store.md R124). -/
def execLea (dr : Reg) (off : BitVec 9) (s : State) : Host.Outcome State Fault Refusal :=
  .next (s.writeDest dr (s.pcRelative off))

/-- ST (43_load_store.md R125). -/
def execSt (sr : Reg) (off : BitVec 9) (s : State) : Host.Outcome State Fault Refusal :=
  .next (s.storeWord (s.pcRelative off) (s.reg sr))

/-- STI: one read, the pointer, and then one write (43_load_store.md R126). -/
def execSti (sr : Reg) (off : BitVec 9) (s : State) : Host.Outcome State Fault Refusal :=
  .next (s.storeWord (s.pointerAt off) (s.reg sr))

/-- STR (43_load_store.md R127). -/
def execStr (sr base : Reg) (off : BitVec 6) (s : State) : Host.Outcome State Fault Refusal :=
  .next (s.storeWord (s.baseOffset base off) (s.reg sr))

end Sys2Proof.Machine
end

