-- ==== Sys2Proof/Machine/Operate.lean ====
section
/-! DEFINITION. ADD, AND, NOT (spec/41_operate.md R110 to R114). -/

namespace Sys2Proof.Machine

/-- ADD, register form (41_operate.md R110). -/
def execAddReg (dr sr1 sr2 : Reg) (s : State) : Host.Outcome State Fault Refusal :=
  .next (s.writeDest dr (aluAdd (s.reg sr1) (s.reg sr2)))

/-- ADD, immediate form (41_operate.md R111). -/
def execAddImm (dr sr1 : Reg) (imm : BitVec 5) (s : State) : Host.Outcome State Fault Refusal :=
  .next (s.writeDest dr (aluAdd (s.reg sr1) (sextField imm)))

/-- AND, register form (41_operate.md R112). -/
def execAndReg (dr sr1 sr2 : Reg) (s : State) : Host.Outcome State Fault Refusal :=
  .next (s.writeDest dr (aluAnd (s.reg sr1) (s.reg sr2)))

/-- AND, immediate form (41_operate.md R113). -/
def execAndImm (dr sr1 : Reg) (imm : BitVec 5) (s : State) : Host.Outcome State Fault Refusal :=
  .next (s.writeDest dr (aluAnd (s.reg sr1) (sextField imm)))

/-- NOT (41_operate.md R114). -/
def execNot (dr sr : Reg) (s : State) : Host.Outcome State Fault Refusal :=
  .next (s.writeDest dr (aluNot (s.reg sr)))

end Sys2Proof.Machine
end

