-- ==== Sys2Proof/Syntax.lean ====
section
/-! DEFINITION. The instructions: one constructor per row of spec/opcode_table.json (spec/30_encoding.md R79, R80, R85). -/

namespace Sys2Proof

/-- The six routines built into the block, which a trap vector selects (30_encoding.md R80, 44_trap.md R129). -/
inductive Routine
  | getc
  | out
  | puts
  | inEcho
  | putsp
  | halt
  deriving DecidableEq, Repr

/-- An instruction with its operands. Bits that no field uses (30_encoding.md R75) are no operand: the decoder ignores them and the
word itself stays readable in IR, which a fault records. RET and the six routine names are rows of the opcode table that spell
words of JMP and TRAP; each has a constructor of its own, which the decoder chooses for its words (notes/assumptions/12.md). -/
inductive Instr
  /-- BR n z p PCoffset9 (42_control.md R115). -/
  | br (n z p : Bool) (off : BitVec 9)
  /-- ADD DR, SR1, SR2 (41_operate.md R110). -/
  | addReg (dr sr1 sr2 : Reg)
  /-- ADD DR, SR1, imm5 (41_operate.md R111). -/
  | addImm (dr sr1 : Reg) (imm : BitVec 5)
  /-- LD DR, PCoffset9 (43_load_store.md R121). -/
  | ld (dr : Reg) (off : BitVec 9)
  /-- ST SR, PCoffset9 (43_load_store.md R125). -/
  | st (sr : Reg) (off : BitVec 9)
  /-- JSRR BaseR (42_control.md R118). -/
  | jsrr (base : Reg)
  /-- JSR PCoffset11 (42_control.md R117). -/
  | jsr (off : BitVec 11)
  /-- AND DR, SR1, SR2 (41_operate.md R112). -/
  | andReg (dr sr1 sr2 : Reg)
  /-- AND DR, SR1, imm5 (41_operate.md R113). -/
  | andImm (dr sr1 : Reg) (imm : BitVec 5)
  /-- LDR DR, BaseR, offset6 (43_load_store.md R123). -/
  | ldr (dr base : Reg) (off : BitVec 6)
  /-- STR SR, BaseR, offset6 (43_load_store.md R127). -/
  | str (sr base : Reg) (off : BitVec 6)
  /-- RTI (45_reserved.md R142). -/
  | rti
  /-- NOT DR, SR (41_operate.md R114). -/
  | not (dr sr : Reg)
  /-- LDI DR, PCoffset9 (43_load_store.md R122). -/
  | ldi (dr : Reg) (off : BitVec 9)
  /-- STI SR, PCoffset9 (43_load_store.md R126). -/
  | sti (sr : Reg) (off : BitVec 9)
  /-- JMP BaseR (42_control.md R116). -/
  | jmp (base : Reg)
  /-- RES (45_reserved.md R141). -/
  | res
  /-- LEA DR, PCoffset9 (43_load_store.md R124). -/
  | lea (dr : Reg) (off : BitVec 9)
  /-- TRAP trapvect8 (44_trap.md R129). -/
  | trap (vect : BitVec 8)
  /-- RET, the spelling of JMP R7 (42_control.md R116, 30_encoding.md R85). -/
  | ret
  /-- GETC, TRAP x20 (44_trap.md R131). -/
  | getc
  /-- OUT, TRAP x21 (44_trap.md R132). -/
  | out
  /-- PUTS, TRAP x22 (44_trap.md R133). -/
  | puts
  /-- IN, TRAP x23 (44_trap.md R134). -/
  | inEcho
  /-- PUTSP, TRAP x24 (44_trap.md R135). -/
  | putsp
  /-- HALT, TRAP x25 (44_trap.md R136). -/
  | halt
  deriving DecidableEq, Repr

end Sys2Proof
end

