-- ==== Sys2Proof/WellFormed.lean ====
section
/-! DEFINITION. Which terms of Instr the decoder can produce: the one spelling of each word (notes/assumptions/12.md). -/

namespace Sys2Proof

/-- Every operand type already has the width of its field, so the only checks are the spellings: JMP R7 is written RET
(30_encoding.md R85), and a TRAP whose vector is one of the six of 30_encoding.md R80 is written with its routine's name. -/
def Instr.wellFormed : Instr → Bool
  | .br _ _ _ _ => true
  | .addReg _ _ _ => true
  | .addImm _ _ _ => true
  | .ld _ _ => true
  | .st _ _ => true
  | .jsrr _ => true
  | .jsr _ => true
  | .andReg _ _ _ => true
  | .andImm _ _ _ => true
  | .ldr _ _ _ => true
  | .str _ _ _ => true
  | .rti => true
  | .not _ _ => true
  | .ldi _ _ => true
  | .sti _ _ => true
  | .jmp base => base != 7
  | .res => true
  | .lea _ _ => true
  | .trap vect => decide (vect.toNat < 0x20) || decide (0x25 < vect.toNat)
  | .ret => true
  | .getc => true
  | .out => true
  | .puts => true
  | .inEcho => true
  | .putsp => true
  | .halt => true

end Sys2Proof
end

