-- ==== Sys2Proof/Decode.lean ====
section
/-! DEFINITION. The decoder (total: every word is an instruction, spec/30_encoding.md R63) and after it the encoder, both written
from the formats of spec/30_encoding.md R64 to R74 and the maps R79 and R80. -/

namespace Sys2Proof

/-- The field of a word whose lowest bit is `lo`, as a register number (30_encoding.md R78). -/
def regField (w : Word) (lo : Nat) : Reg := (w.extractLsb' lo 3).toFin

/-- The trap vector map (30_encoding.md R80): the routine a vector selects, none for the vectors that are fatal. -/
def routineOfVector (v : BitVec 8) : Option Routine :=
  if v = 0x20#8 then some .getc
  else if v = 0x21#8 then some .out
  else if v = 0x22#8 then some .puts
  else if v = 0x23#8 then some .inEcho
  else if v = 0x24#8 then some .putsp
  else if v = 0x25#8 then some .halt
  else none

/-- The instruction that spells the call of a routine (30_encoding.md R85). -/
def instrOfRoutine : Routine → Instr
  | .getc => .getc
  | .out => .out
  | .puts => .puts
  | .inEcho => .inEcho
  | .putsp => .putsp
  | .halt => .halt

/-- A TRAP word is read from its low eight bits alone (30_encoding.md R73, R75, R80). -/
def decodeTrap (v : BitVec 8) : Instr :=
  match routineOfVector v with
  | some r => instrOfRoutine r
  | none => .trap v

/-- A JMP word with base register 7 is RET (30_encoding.md R85). -/
def decodeJmp (base : Reg) : Instr :=
  if base = 7 then .ret else .jmp base

/-- The decoder. The four bits matched on are `instr[15]`, `instr[14]`, `instr[13]`, `instr[12]`; all sixteen rows stand
(30_encoding.md R63, R79). ADD and AND are split by `instr[5]`, JSR and JSRR by `instr[11]` (R78). The bits of R75 are not read. -/
def decode (w : Word) : Instr :=
  match w.getLsbD 15, w.getLsbD 14, w.getLsbD 13, w.getLsbD 12 with
  | false, false, false, false => .br (w.getLsbD 11) (w.getLsbD 10) (w.getLsbD 9) (w.extractLsb' 0 9)
  | false, false, false, true =>
    if w.getLsbD 5 then .addImm (regField w 9) (regField w 6) (w.extractLsb' 0 5)
    else .addReg (regField w 9) (regField w 6) (regField w 0)
  | false, false, true, false => .ld (regField w 9) (w.extractLsb' 0 9)
  | false, false, true, true => .st (regField w 9) (w.extractLsb' 0 9)
  | false, true, false, false =>
    if w.getLsbD 11 then .jsr (w.extractLsb' 0 11) else .jsrr (regField w 6)
  | false, true, false, true =>
    if w.getLsbD 5 then .andImm (regField w 9) (regField w 6) (w.extractLsb' 0 5)
    else .andReg (regField w 9) (regField w 6) (regField w 0)
  | false, true, true, false => .ldr (regField w 9) (regField w 6) (w.extractLsb' 0 6)
  | false, true, true, true => .str (regField w 9) (regField w 6) (w.extractLsb' 0 6)
  | true, false, false, false => .rti
  | true, false, false, true => .not (regField w 9) (regField w 6)
  | true, false, true, false => .ldi (regField w 9) (w.extractLsb' 0 9)
  | true, false, true, true => .sti (regField w 9) (w.extractLsb' 0 9)
  | true, true, false, false => decodeJmp (regField w 6)
  | true, true, false, true => .res
  | true, true, true, false => .lea (regField w 9) (w.extractLsb' 0 9)
  | true, true, true, true => decodeTrap (w.extractLsb' 0 8)

/-- The word an opcode-table word stands for: its low `nbits` bits, every higher bit 0. An instruction is one word
(30_encoding.md R62), so the table's bit numbering is the word's own and no byte order enters (20_memory.md R48). -/
def tableWord (nbits w : Nat) : Word := BitVec.ofNat 16 (w % 2 ^ nbits)

/-- What the decoder reads from a table word of `nbits` bits: none where it is no word of this length (30_encoding.md R62: every
instruction is exactly one 16-bit word). -/
def decodeTableWord (nbits w : Nat) : Option Instr :=
  if nbits ≤ 16 ∧ w < 2 ^ nbits then some (decode (tableWord nbits w)) else none

/-- The three bits of a register field. -/
def regBits (r : Reg) : BitVec 3 := BitVec.ofFin r

/-- The vector number of a routine (30_encoding.md R80). -/
def vectorOfRoutine : Routine → BitVec 8
  | .getc => 0x20#8
  | .out => 0x21#8
  | .puts => 0x22#8
  | .inEcho => 0x23#8
  | .putsp => 0x24#8
  | .halt => 0x25#8

/-- A field put into a word with its lowest bit at `lo`. -/
def placed {n : Nat} (f : BitVec n) (lo : Nat) : Word := f.setWidth 16 <<< lo

/-- Format TRAPF (30_encoding.md R73). -/
def encodeTrap (v : BitVec 8) : Word := 0xF000#16 ||| placed v 0

/-- Format JMPF (30_encoding.md R68). -/
def encodeJmp (base : Reg) : Word := 0xC000#16 ||| placed (regBits base) 6

/-- The encoder, from the same formats (30_encoding.md R64 to R74): the `match` of the row (R79, R80) with each field at its place.
Every ignored bit is 0 (notes/assumptions/13.md). -/
def encode : Instr → Word
  | .br n z p off =>
    0x0000#16 ||| placed (BitVec.ofBool n) 11 ||| placed (BitVec.ofBool z) 10 ||| placed (BitVec.ofBool p) 9 ||| placed off 0
  | .addReg dr sr1 sr2 => 0x1000#16 ||| placed (regBits dr) 9 ||| placed (regBits sr1) 6 ||| placed (regBits sr2) 0
  | .addImm dr sr1 imm => 0x1020#16 ||| placed (regBits dr) 9 ||| placed (regBits sr1) 6 ||| placed imm 0
  | .ld dr off => 0x2000#16 ||| placed (regBits dr) 9 ||| placed off 0
  | .st sr off => 0x3000#16 ||| placed (regBits sr) 9 ||| placed off 0
  | .jsrr base => 0x4000#16 ||| placed (regBits base) 6
  | .jsr off => 0x4800#16 ||| placed off 0
  | .andReg dr sr1 sr2 => 0x5000#16 ||| placed (regBits dr) 9 ||| placed (regBits sr1) 6 ||| placed (regBits sr2) 0
  | .andImm dr sr1 imm => 0x5020#16 ||| placed (regBits dr) 9 ||| placed (regBits sr1) 6 ||| placed imm 0
  | .ldr dr base off => 0x6000#16 ||| placed (regBits dr) 9 ||| placed (regBits base) 6 ||| placed off 0
  | .str sr base off => 0x7000#16 ||| placed (regBits sr) 9 ||| placed (regBits base) 6 ||| placed off 0
  | .rti => 0x8000#16
  | .not dr sr => 0x9000#16 ||| placed (regBits dr) 9 ||| placed (regBits sr) 6
  | .ldi dr off => 0xA000#16 ||| placed (regBits dr) 9 ||| placed off 0
  | .sti sr off => 0xB000#16 ||| placed (regBits sr) 9 ||| placed off 0
  | .jmp base => encodeJmp base
  | .res => 0xD000#16
  | .lea dr off => 0xE000#16 ||| placed (regBits dr) 9 ||| placed off 0
  | .trap vect => encodeTrap vect
  | .ret => encodeJmp 7
  | .getc => encodeTrap (vectorOfRoutine .getc)
  | .out => encodeTrap (vectorOfRoutine .out)
  | .puts => encodeTrap (vectorOfRoutine .puts)
  | .inEcho => encodeTrap (vectorOfRoutine .inEcho)
  | .putsp => encodeTrap (vectorOfRoutine .putsp)
  | .halt => encodeTrap (vectorOfRoutine .halt)

end Sys2Proof
end

