-- ==== Sys2Proof/Machine/Trap.lean ====
section
/-! DEFINITION. TRAP and the six built-in routines (spec/44_trap.md R129 to R140), and RES and RTI (spec/45_reserved.md R141, R142).
A routine runs on the state after the trap entry, and no routine writes PC or COND (R130). -/

namespace Sys2Proof.Machine

/-- Trap entry: the post-increment PC goes into R7, and nothing else is saved (44_trap.md R129, 60_exceptions.md R151). -/
def State.trapEntry (s : State) : State := s.link

/-! ## GETC and IN -/

/-- What the routine does with the byte ReadByte returned: GETC puts it zero-extended in R0 (44_trap.md R131), IN echoes it first
(R134). -/
def State.deliverByte (s : State) : ReadRoutine → Byte → State
  | .getc, b => s.writeReg 0 (zextByte b)
  | .inEcho, b => (s.emit (.write b)).writeReg 0 (zextByte b)

/-- ReadByte and the rest of the routine: the host's next byte if it has supplied one, else the block waits in the routine
(44_trap.md R131, R134; notes/assumptions/6.md). -/
def State.readByteFor (s : State) (r : ReadRoutine) : State :=
  match s.input with
  | [] => s.await r
  | b :: rest => (s.takeByte b rest).deliverByte r b

/-- GETC (44_trap.md R131). -/
def State.routineGetc (s : State) : State := s.readByteFor .getc

/-- IN: the prompt, then the read, then the echo (44_trap.md R134, D14). -/
def State.routineIn (s : State) : State := (s.writeBytes s.params.inPrompt).readByteFor .inEcho

/-! ## OUT, PUTS and PUTSP -/

/-- OUT (44_trap.md R132). -/
def State.routineOut (s : State) : State := s.emit (.write (lowByte (s.reg 0)))

/-- The bytes one word of a string writes: PUTS its low byte (44_trap.md R133), PUTSP its low byte and then its high byte unless that
is 0x00 (R135). -/
def stringBytes : StringFormat → Word → List Byte
  | .puts, w => [lowByte w]
  | .putsp, w => if highByte w = 0#8 then [lowByte w] else [lowByte w, highByte w]

/-- The loop of PUTS and PUTSP over at most a given number of words from an address: the bytes written, and the address where the loop
stands if it has not met the 0x0000 word yet (44_trap.md R133, R135). -/
def scanString (f : StringFormat) (m : Memory) : Nat → Word → List Byte × Option Word
  | 0, a => ([], some a)
  | k + 1, a =>
    if m.read a = 0#16 then ([], none)
    else
      let rest := scanString f m k (a + 1#16)
      (stringBytes f (m.read a) ++ rest.1, rest.2)

/-- As many words as memory has: a loop that has gone through them all without meeting 0x0000 never ends (44_trap.md R133). -/
def lapWords : Nat := 65536

/-- The string loop from an address, one lap of memory at most. With a terminator, the routine ends. Without one it goes on for ever
and the block stays inside it (40_sequencer.md R106; notes/assumptions/7.md). -/
def State.writeString (s : State) (f : StringFormat) (a : Word) : State :=
  let r := scanString f s.mem lapWords a
  { s.writeBytes r.1 with
    activity := match r.2 with
      | none => .idle
      | some a' => .writingString f a' }

/-- PUTS (44_trap.md R133). -/
def State.routinePuts (s : State) : State := s.writeString .puts (s.reg 0)

/-- PUTSP (44_trap.md R135). -/
def State.routinePutsp (s : State) : State := s.writeString .putsp (s.reg 0)

/-! ## HALT -/

/-- HALT: a Flush event, then HALTED; no message (44_trap.md R136, D16). -/
def State.routineHalt (s : State) : State := (s.emit .flush).halt

/-! ## Going on inside a routine -/

/-- What the block does in a step that finds it inside a routine (44_trap.md R138: no instruction is fetched until the routine
returns). -/
def State.resume (s : State) : State :=
  match s.activity with
  | .idle => s
  | .awaitingByte r => s.readByteFor r
  | .writingString f a => s.writeString f a

/-! ## Meanings -/

/-- The routine a trap runs after its entry. -/
def State.runRoutine (s : State) : Routine → State
  | .getc => s.routineGetc
  | .out => s.routineOut
  | .puts => s.routinePuts
  | .inEcho => s.routineIn
  | .putsp => s.routinePutsp
  | .halt => s.routineHalt

/-- TRAP: the link, then the routine the vector selects; any other vector is the fault TRAP_UNKNOWN, with R7 already written
(44_trap.md R129, R137). -/
def execTrap (vect : BitVec 8) (s : State) : Host.Outcome State Fault Refusal :=
  match routineOfVector vect with
  | some r => .next (s.trapEntry.runRoutine r)
  | none => .next (s.trapEntry.raiseFault .trapUnknown)

/-- GETC, TRAP x20 (44_trap.md R131). -/
def execGetc (s : State) : Host.Outcome State Fault Refusal := .next s.trapEntry.routineGetc

/-- OUT, TRAP x21 (44_trap.md R132). -/
def execOut (s : State) : Host.Outcome State Fault Refusal := .next s.trapEntry.routineOut

/-- PUTS, TRAP x22 (44_trap.md R133). -/
def execPuts (s : State) : Host.Outcome State Fault Refusal := .next s.trapEntry.routinePuts

/-- IN, TRAP x23 (44_trap.md R134). -/
def execIn (s : State) : Host.Outcome State Fault Refusal := .next s.trapEntry.routineIn

/-- PUTSP, TRAP x24 (44_trap.md R135). -/
def execPutsp (s : State) : Host.Outcome State Fault Refusal := .next s.trapEntry.routinePutsp

/-- HALT, TRAP x25 (44_trap.md R136). -/
def execHalt (s : State) : Host.Outcome State Fault Refusal := .next s.trapEntry.routineHalt

/-- RES: the fault RES, always (45_reserved.md R141). -/
def execRes (s : State) : Host.Outcome State Fault Refusal := .next (s.raiseFault .res)

/-- RTI: the fault RTI, always, since there is no supervisor mode (45_reserved.md R142). -/
def execRti (s : State) : Host.Outcome State Fault Refusal := .next (s.raiseFault .rti)

end Sys2Proof.Machine
end

