-- ==== Sys2Proof/Machine/Sequencer.lean ====
section
/-! DEFINITION. The parts of a step around the instruction: the guard, the fetch with its increment, and the end of the step
(spec/40_sequencer.md R96 to R104). Machine/Step.lean only puts them together. -/

namespace Sys2Proof.Machine

/-- The top-of-address-space guard, tested before the fetch (40_sequencer.md R98, R99). -/
def State.guardFires (s : State) : Bool :=
  match s.params.topGuard with
  | .atFFFF => s.pc == 0xFFFF#16
  | .off => false

/-- Fetch and increment: `IR <- MemRead(PC, 1)`, then `PC <- PC + 1` modulo 65536 (40_sequencer.md R100, R101). -/
def State.fetch (s : State) : State := { s with ir := s.mem.read s.pc, pc := s.pc + 1#16 }

/-- The end of a step: once the instruction is over, IR holds nothing (10_state.md R37: "never stored beyond the current decode/execute
step"). While the block is still inside a TRAP routine the step of that TRAP is not over (44_trap.md R138). -/
def State.retire (s : State) : State :=
  match s.activity with
  | .idle => { s with ir := 0#16 }
  | .awaitingByte _ => s
  | .writingString _ _ => s

/-- Change the next state of an outcome. -/
def onNext (f : State → State) : Host.Outcome State Fault Refusal → Host.Outcome State Fault Refusal
  | .next s => .next (f s)
  | .fault r => .fault r
  | .refused r => .refused r

/-- Put a word where the next fetch reads, and make the next step be that fetch: RUNNING, not inside a routine, and the guard not in
the way. From State.reset only the memory changes. -/
def State.placeNext (s : State) (w : Word) : State :=
  { s with
    mem := s.mem.write s.pc w
    runState := .running
    activity := .idle
    params := if s.guardFires then { s.params with topGuard := .off } else s.params }

end Sys2Proof.Machine
end

