-- ==== Sys2Proof/Machine/Step.lean ====
section
/-! DEFINITION. One step of the sequencer (spec/40_sequencer.md R96). -/

namespace Sys2Proof.Machine

/-- One step. Only a RUNNING block steps (40_sequencer.md R97, R105). Between instructions the guard is tested first (R98, R99), and
otherwise the word at PC is fetched, PC incremented, and the decoded instruction executed (R100 to R103). Inside a routine the
block goes on with it and fetches nothing (44_trap.md R138). -/
def step (s : State) : Host.Outcome State Fault Refusal :=
  match s.runState with
  | .halted => .fault .halted
  | .faulted => .fault .faulted
  | .running =>
    match s.activity with
    | .idle =>
      if s.guardFires then .next s.halt
      else onNext State.retire (exec (decode s.fetch.ir) s.fetch)
    | .awaitingByte _ => .next s.resume.retire
    | .writingString _ _ => .next s.resume.retire

/-- The state whose very next step fetches and runs the table word: a program comes to run by being loaded from outside
(70_reset_and_hazards.md R168; notes/assumptions/14.md). -/
def State.withFetchWord (s : State) (nbits w : Nat) : State := s.placeNext (tableWord nbits w)

end Sys2Proof.Machine
end

