-- ==== Sys2Proof/Machine/Launch.lean ====
section
/-! DEFINITION. The loader's contract with the block: the image format and the launch memory (spec/20_memory.md R49,
spec/70_reset_and_hazards.md R168, R170), and the images a launch is refused for (R171). -/

namespace Sys2Proof.Machine

/-- Why a launch is refused (70_reset_and_hazards.md R171, D18). Refusing is safe: no claim is made about such an image. -/
inductive LaunchRefusal
  /-- The image file cannot be read. -/
  | unreadable
  /-- The stream holds no origin word. -/
  | emptyStream
  /-- The stream has an odd number of bytes. -/
  | oddBytes
  /-- A word would land past address 0xFFFF. -/
  | pastTop
  deriving DecidableEq, Repr

/-- A placed image: its origin and the memory after loading. -/
structure Image where
  origin : Word
  mem : Memory
  deriving DecidableEq, Repr

/-- The big-endian word of a pair of bytes, `b0 * 256 + b1` (20_memory.md R49). -/
def wordOfBytes (b0 b1 : Byte) : Word := (b0.setWidth 16 <<< 8) ||| b1.setWidth 16

/-- The words of a stream; none if its byte count is odd (20_memory.md R49). -/
def wordsOfBytes : List Byte → Option (List Word)
  | [] => some []
  | [_] => none
  | b0 :: b1 :: rest => (wordsOfBytes rest).map (wordOfBytes b0 b1 :: ·)

/-- Words stored at consecutive addresses from a start (70_reset_and_hazards.md R170). -/
def placeWords (m : Memory) : Word → List Word → Memory
  | _, [] => m
  | a, w :: rest => placeWords (m.write a w) (a + 1#16) rest

/-- The launch memory of an image of words `o, w1, ..., wk`: all zero, then `M[o + i - 1] <- wi`, where `o + k` is at most 65536
(70_reset_and_hazards.md R170, R171). The origin word itself is not stored. -/
def loadWords : List Word → Except LaunchRefusal Image
  | [] => .error .emptyStream
  | o :: ws =>
    if 65536 < o.toNat + ws.length then .error .pastTop
    else .ok { origin := o, mem := placeWords { cells := [] } o ws }

/-- Loading a byte stream; `none` is a file the host could not read (70_reset_and_hazards.md R171). -/
def loadImage : Option (List Byte) → Except LaunchRefusal Image
  | none => .error .unreadable
  | some bytes =>
    match wordsOfBytes bytes with
    | none => .error .oddBytes
    | some ws => loadWords ws

/-- The boot order (70_reset_and_hazards.md R168): the memory zeroed, the image placed, then `reset(START_PC)` with the parameters the
host chose (it may pass the image's origin as START_PC, 90_conflicts.md C6). -/
def launch (p : Params) (bytes : Option (List Byte)) : Except LaunchRefusal State :=
  match loadImage bytes with
  | .error e => .error e
  | .ok image => .ok (State.launched p image.mem)

end Sys2Proof.Machine
end

