-- ==== Sys2Proof/Machine/Ports.lean ====
section
/-! DEFINITION. What the host does and sees through the block's abstract ports (spec/10_state.md R39 to R42). -/

namespace Sys2Proof.Machine

/-- The host supplies one more byte of input (10_state.md R40, D15). It can do so between two steps; the byte is taken by the first
ReadByte that has not been answered. -/
def State.supply (s : State) (b : Byte) : State := { s with input := s.input ++ [b] }

/-- The control port's `reset(START_PC)` (10_state.md R41, 70_reset_and_hazards.md R161, R167): every register takes its reset value,
memory stays as the loader left it (R164), and so do the other parameters and the host's input. -/
def State.controlReset (s : State) (startPc : Word) : State :=
  { State.launched { s.params with startPc := startPc } s.mem with input := s.input }

/-- The status port (10_state.md R41): the run state, and in FAULTED the fault record. -/
def State.status (s : State) : RunState × Option FaultRecord :=
  match s.runState with
  | .running => (.running, none)
  | .halted => (.halted, none)
  | .faulted => (.faulted, some s.fault)

/-- The registers and memory as an observer of a halted run sees them. -/
structure HaltedView where
  regs : Vector Word 8
  pc : Word
  cond : Word
  mem : Memory
  deriving DecidableEq, Repr

/-- What the host observes of a run (10_state.md R42): the I/O events, the terminal state with the fault record, and, in HALTED only,
the registers and memory (60_exceptions.md R146: after a fault they belong to no observation). -/
structure Observation where
  events : List IoEvent
  status : RunState × Option FaultRecord
  view : Option HaltedView
  deriving DecidableEq, Repr

/-- The observation of a state (10_state.md R42). -/
def State.observation (s : State) : Observation :=
  { events := s.trace
    status := s.status
    view := match s.runState with
      | .halted => some { regs := s.regs, pc := s.pc, cond := s.cond, mem := s.mem }
      | .running => none
      | .faulted => none }

end Sys2Proof.Machine
end

