-- ==== Sys2Proof/Safety.lean ====
section
/-! DEFINITION. What holds of a block at every point of a run, which states a run reaches, and what a safe end is. -/

namespace Sys2Proof.Machine

/-- What every step keeps. -/
structure State.Inv (s : State) : Prop where
  /-- Memory keeps its one form (notes/assumptions/1.md). -/
  memory : s.mem.wf
  /-- COND holds NEG, ZERO or POS, or still COND_RESET (10_state.md R27, R30). -/
  cond : s.cond = 0x0004#16 ∨ s.cond = 0x0002#16 ∨ s.cond = 0x0001#16 ∨ s.cond = s.params.condReset
  /-- The fault record is filled exactly in FAULTED (10_state.md R36). -/
  record : s.runState = .faulted ↔ s.fault.cause ≠ .none
  /-- REG_INDEX is never raised (60_exceptions.md R147). -/
  cause : s.fault.cause ≠ .regIndex
  /-- IR is empty between instructions (10_state.md R37; notes/assumptions/8.md). -/
  transient : s.activity = .idle → s.ir = 0#16
  /-- A stopped block is inside no routine (40_sequencer.md R105; notes/assumptions/6.md). -/
  stopped : s.runState ≠ .running → s.activity = .idle

/-- The states a run reaches from a launch: by steps of the block, and by bytes the host supplies between them (10_state.md R40). -/
inductive Reachable (p : Params) (m : Memory) : State → Prop
  | launch : Reachable p m (State.launched p m)
  | step {s t : State} : Reachable p m s → step s = .next t → Reachable p m t
  | supply {s : State} (b : Byte) : Reachable p m s → Reachable p m (s.supply b)

/-- A run has ended well: HALTED, whichever way it halted (40_sequencer.md R107). -/
def State.endedWell (s : State) : Bool := s.runState == .halted

/-- A run has not met a fatal error (60_exceptions.md R143). -/
def State.safe (s : State) : Bool := s.runState != .faulted

end Sys2Proof.Machine
end

