-- ==== Sys2Proof/Certificates/Slice0/Obligations.lean ====
section
/-! DEFINITION. The statements for the provers. In every statement about `exec`, the state is the one after fetch and increment
(spec/40_sequencer.md R96): `s.pc` is the post-increment PC and `s.ir` the instruction word. Every clause about the words that decode to
an instruction rests on the spec's own decisions D1, D2 and D9, and every clause that gives COND a number on its decision D3
(notes/assumptions/17.md); a docstring names the other decisions a statement rests on (notes/assumptions/18.md). -/

namespace Sys2Proof.Claims

open Sys2Proof.Machine

/-! ## The vocabulary of the statements -/

/-- The register number in three bits of a word (30_encoding.md R78). -/
def regAt (w : Word) (lo : Nat) : Reg := (w.extractLsb' lo 3).toFin

/-- The flag word of a value as 40_sequencer.md R91 writes it out. -/
def flagOf (v : Word) : Word :=
  if v = 0x0000#16 then 0x0002#16 else if v.getLsbD 15 = true then 0x0004#16 else 0x0001#16

/-- Every register but those listed is unchanged. -/
def SameRegs (s t : State) (but : List Reg) : Prop := ∀ r, r ∉ but → t.reg r = s.reg r

/-- Every word of memory reads as before. -/
def SameMem (s t : State) : Prop := ∀ a, t.mem.read a = s.mem.read a

/-- The run state and the fault record are unchanged. -/
def SameRun (s t : State) : Prop := t.runState = s.runState ∧ t.fault = s.fault

/-- No event on the I/O port, no input taken. -/
def SameIo (s t : State) : Prop := t.trace = s.trace ∧ t.input = s.input ∧ t.activity = s.activity

/-- IR and the parameters are unchanged. -/
def SameRest (s t : State) : Prop := t.ir = s.ir ∧ t.params = s.params

/-- An instruction that writes the register `dr` with `v` and COND with its classification, and nothing else. -/
def WritesDest (s t : State) (dr : Reg) (v : Word) : Prop :=
  t.reg dr = v ∧ SameRegs s t [dr] ∧ t.cond = flagOf v ∧ t.pc = s.pc ∧ SameMem s t ∧ SameRun s t ∧ SameIo s t ∧ SameRest s t

/-- An instruction that stores the word `v` at the address `ea`, and nothing else. -/
def Stores (s t : State) (ea v : Word) : Prop :=
  t.mem.read ea = v ∧ (∀ a, a ≠ ea → t.mem.read a = s.mem.read a) ∧ SameRegs s t [] ∧ t.cond = s.cond ∧ t.pc = s.pc ∧
    SameRun s t ∧ SameIo s t ∧ SameRest s t

/-- An instruction that sets the PC to `target` and, where `link` is given, R7 to it, and nothing else. -/
def Transfers (s t : State) (target : Word) (link : Option Word) : Prop :=
  t.pc = target ∧ (∀ v, link = some v → t.reg 7 = v ∧ SameRegs s t [7]) ∧ (link = none → SameRegs s t []) ∧
    t.cond = s.cond ∧ SameMem s t ∧ SameRun s t ∧ SameIo s t ∧ SameRest s t

/-- What a trap routine leaves alone, apart from R7 (the return address) and the registers listed (44_trap.md R130). -/
def TrapFrame (s t : State) (written : List Reg) : Prop :=
  t.reg 7 = s.pc ∧ SameRegs s t (7 :: written) ∧ t.cond = s.cond ∧ t.pc = s.pc ∧ SameMem s t ∧ SameRest s t

/-- The fault record and run state after `raise Fault(cause, {pc: PC - 1, word: instr})` (60_exceptions.md R145), with everything
outside them, and outside the registers listed, as it was. -/
def Faults (s t : State) (cause : FaultCause) (written : List Reg) : Prop :=
  t.runState = .faulted ∧ t.fault.cause = cause ∧ t.fault.pc = s.pc - 1#16 ∧ t.fault.word = s.ir ∧
    SameRegs s t written ∧ t.cond = s.cond ∧ t.pc = s.pc ∧ SameMem s t ∧ SameIo s t ∧ SameRest s t

/-- The block is about to fetch: RUNNING, between instructions, and the top guard does not fire (40_sequencer.md R96, R99). -/
def Fetches (s : State) : Prop :=
  s.runState = .running ∧ s.activity = .idle ∧ ¬ (s.params.topGuard = .atFFFF ∧ s.pc = 0xFFFF#16)

/-- The instructions that call setcc (40_sequencer.md R92). -/
def setsFlags : Instr → Bool
  | .addReg _ _ _ | .addImm _ _ _ | .andReg _ _ _ | .andImm _ _ _ | .not _ _ => true
  | .ld _ _ | .ldi _ _ | .ldr _ _ _ | .lea _ _ => true
  | .br _ _ _ _ | .st _ _ | .sti _ _ | .str _ _ _ | .jmp _ | .ret | .jsr _ | .jsrr _ => false
  | .trap _ | .getc | .out | .puts | .inEcho | .putsp | .halt | .res | .rti => false

/-- The registers an instruction may write (10_state.md R20). -/
def writtenRegs : Instr → List Reg
  | .addReg dr _ _ | .addImm dr _ _ | .andReg dr _ _ | .andImm dr _ _ | .not dr _ => [dr]
  | .ld dr _ | .ldi dr _ | .ldr dr _ _ | .lea dr _ => [dr]
  | .jsr _ | .jsrr _ | .out | .puts | .putsp | .halt => [7]
  | .getc | .inEcho => [7, 0]
  | .trap v => if v = 0x20#8 ∨ v = 0x23#8 then [7, 0] else [7]
  | .br _ _ _ _ | .st _ _ | .sti _ _ | .str _ _ _ | .jmp _ | .ret | .res | .rti => []

/-- The instructions that write PC after the fetch increment (10_state.md R24). -/
def writesPc : Instr → Bool
  | .br _ _ _ _ | .jmp _ | .ret | .jsr _ | .jsrr _ => true
  | .addReg _ _ _ | .addImm _ _ _ | .andReg _ _ _ | .andImm _ _ _ | .not _ _ => false
  | .ld _ _ | .ldi _ _ | .ldr _ _ _ | .lea _ _ | .st _ _ | .sti _ _ | .str _ _ _ => false
  | .trap _ | .getc | .out | .puts | .inEcho | .putsp | .halt | .res | .rti => false

/-- The address an instruction stores to in a state, and the register it stores (43_load_store.md R125 to R127). -/
def storeOf (s : State) : Instr → Option (Word × Reg)
  | .st sr off => some (s.pcRelative off, sr)
  | .sti sr off => some (s.pointerAt off, sr)
  | .str sr base off => some (s.baseOffset base off, sr)
  | .br _ _ _ _ | .jmp _ | .ret | .jsr _ | .jsrr _ => none
  | .addReg _ _ _ | .addImm _ _ _ | .andReg _ _ _ | .andImm _ _ _ | .not _ _ => none
  | .ld _ _ | .ldi _ _ | .ldr _ _ _ | .lea _ _ => none
  | .trap _ | .getc | .out | .puts | .inEcho | .putsp | .halt | .res | .rti => none

/-- The address an instruction loads from in a state, and the register it loads (43_load_store.md R121 to R123). -/
def loadOf (s : State) : Instr → Option (Word × Reg)
  | .ld dr off => some (s.pcRelative off, dr)
  | .ldi dr off => some (s.pointerAt off, dr)
  | .ldr dr base off => some (s.baseOffset base off, dr)
  | .br _ _ _ _ | .jmp _ | .ret | .jsr _ | .jsrr _ => none
  | .addReg _ _ _ | .addImm _ _ _ | .andReg _ _ _ | .andImm _ _ _ | .not _ _ => none
  | .st _ _ | .sti _ _ | .str _ _ _ | .lea _ _ => none
  | .trap _ | .getc | .out | .puts | .inEcho | .putsp | .halt | .res | .rti => none

/-- The opcode rows of 30_encoding.md R79: mask and match. -/
def opcodeRows : List (Word × Word) :=
  [(0xF000#16, 0x0000#16), (0xF020#16, 0x1000#16), (0xF020#16, 0x1020#16), (0xF000#16, 0x2000#16), (0xF000#16, 0x3000#16)] ++
  [(0xF800#16, 0x4000#16), (0xF800#16, 0x4800#16), (0xF020#16, 0x5000#16), (0xF020#16, 0x5020#16), (0xF000#16, 0x6000#16)] ++
  [(0xF000#16, 0x7000#16), (0xF000#16, 0x8000#16), (0xF000#16, 0x9000#16), (0xF000#16, 0xA000#16), (0xF000#16, 0xB000#16)] ++
  [(0xF000#16, 0xC000#16), (0xF000#16, 0xD000#16), (0xF000#16, 0xE000#16), (0xF000#16, 0xF000#16)]

/-- The row of 30_encoding.md R79 that each constructor stands in: mask and match. RET is a spelling of JMP's row, and the six routine
names of TRAP's (R85). -/
def rowOf : Instr → Word × Word
  | .br _ _ _ _ => (0xF000#16, 0x0000#16)
  | .addReg _ _ _ => (0xF020#16, 0x1000#16)
  | .addImm _ _ _ => (0xF020#16, 0x1020#16)
  | .ld _ _ => (0xF000#16, 0x2000#16)
  | .st _ _ => (0xF000#16, 0x3000#16)
  | .jsrr _ => (0xF800#16, 0x4000#16)
  | .jsr _ => (0xF800#16, 0x4800#16)
  | .andReg _ _ _ => (0xF020#16, 0x5000#16)
  | .andImm _ _ _ => (0xF020#16, 0x5020#16)
  | .ldr _ _ _ => (0xF000#16, 0x6000#16)
  | .str _ _ _ => (0xF000#16, 0x7000#16)
  | .rti => (0xF000#16, 0x8000#16)
  | .not _ _ => (0xF000#16, 0x9000#16)
  | .ldi _ _ => (0xF000#16, 0xA000#16)
  | .sti _ _ => (0xF000#16, 0xB000#16)
  | .jmp _ | .ret => (0xF000#16, 0xC000#16)
  | .res => (0xF000#16, 0xD000#16)
  | .lea _ _ => (0xF000#16, 0xE000#16)
  | .trap _ | .getc | .out | .puts | .inEcho | .putsp | .halt => (0xF000#16, 0xF000#16)

/-- The bits of a word the decoder reads (all but those of 30_encoding.md R75). -/
def readBits (w : Word) : Word :=
  if w &&& 0xF020#16 = 0x1000#16 ∨ w &&& 0xF020#16 = 0x5000#16 then 0xFFE7#16
  else if w &&& 0xF000#16 = 0x9000#16 then 0xFFC0#16
  else if w &&& 0xF000#16 = 0xC000#16 then 0xF1C0#16
  else if w &&& 0xF800#16 = 0x4000#16 then 0xF9C0#16
  else if w &&& 0xF000#16 = 0xF000#16 then 0xF0FF#16
  else if w &&& 0xF000#16 = 0xD000#16 ∨ w &&& 0xF000#16 = 0x8000#16 then 0xF000#16
  else 0xFFFF#16

/-- The two bytes of a word in the image's big-endian stream (20_memory.md R49). -/
def bigEndian (w : Word) : List Byte := [w.extractLsb' 8 8, w.extractLsb' 0 8]

/-- The vectors that select no routine (30_encoding.md R80). -/
def UnknownVector (v : BitVec 8) : Prop := v.toNat < 0x20 ∨ 0x25 < v.toNat

/-- The bytes PUTS writes for the first `k` words of a string (44_trap.md R133). -/
def putsBytes (m : Memory) (a : Word) (k : Nat) : List Byte :=
  (List.range k).map (fun j => (m.read (a + BitVec.ofNat 16 j)).extractLsb' 0 8)

/-- The bytes PUTSP writes for the first `k` words of a string (44_trap.md R135). -/
def putspBytes (m : Memory) (a : Word) (k : Nat) : List Byte :=
  (List.range k).flatMap (fun j =>
    let w := m.read (a + BitVec.ofNat 16 j)
    w.extractLsb' 0 8 :: (if w.extractLsb' 8 8 = 0#8 then [] else [w.extractLsb' 8 8]))

/-- A string of `k` words with the terminator right after them; `k` is below 65536, since memory has no more words. -/
def StringAt (m : Memory) (a : Word) (k : Nat) : Prop :=
  k < 65536 ∧ (∀ j, j < k → m.read (a + BitVec.ofNat 16 j) ≠ 0x0000#16) ∧ m.read (a + BitVec.ofNat 16 k) = 0x0000#16

end Sys2Proof.Claims

open Sys2Proof Sys2Proof.Machine Sys2Proof.Claims

/-! ## Encoding -/

/-- Words of the spec's own examples decode to what they stand for (41_operate.md, 42_control.md, 43_load_store.md, 44_trap.md,
45_reserved.md, the examples of each rule). -/
def Obligations.SpecWordsDecode : Prop :=
  decode 0x1283#16 = .addReg 1 2 3 ∧ decode 0x14FF#16 = .addImm 2 3 0x1F#5 ∧ decode 0x5946#16 = .andReg 4 5 6 ∧
  decode 0x92BF#16 = .not 1 2 ∧ decode 0x0205#16 = .br false false true 5#9 ∧ decode 0xC1C0#16 = .ret ∧
  decode 0x4803#16 = .jsr 3#11 ∧ decode 0x40C0#16 = .jsrr 3 ∧ decode 0x2007#16 = .ld 0 7#9 ∧
  decode 0x7642#16 = .str 3 1 2#6 ∧ decode 0xF025#16 = .halt ∧ decode 0xD000#16 = .res

/-- Decoding the encoding of a well-formed instruction gives it back: no operand bit is dropped. -/
def Obligations.DecodeOfEncode : Prop := ∀ i : Instr, i.wellFormed = true → decode (encode i) = i

/-- The decoder ignores the bits of 30_encoding.md R75: a word decodes as if they were 0, to a well-formed instruction, and the encoding of
that instruction is the word with those bits 0. -/
def Obligations.EncodeOfDecodeClearsIgnoredBits : Prop :=
  ∀ w : Word, decode (w &&& readBits w) = decode w ∧ (decode w).wellFormed = true ∧ encode (decode w) = w &&& readBits w

/-- Every word matches exactly one of the nineteen rows of the opcode map (30_encoding.md R79), and the decoder gives it an instruction of
that row. -/
def Obligations.EveryWordMatchesOneRow : Prop :=
  ∀ w : Word, rowOf (decode w) ∈ opcodeRows ∧ ∀ row, row ∈ opcodeRows → (w &&& row.1 = row.2 ↔ row = rowOf (decode w))

/-! ## The datapath units -/

/-- The sign-extension unit (00_scope.md R10, 40_sequencer.md R90). -/
def Obligations.SignExtensionBroadcasts : Prop :=
  ∀ (n : Nat) (v : Word), 1 ≤ n → n ≤ 16 → ∀ i, i < 16 →
    (sext n v).getLsbD i = if i < n then v.getLsbD i else v.getLsbD (n - 1)

/-- The flag unit classifies a value and writes COND alone (40_sequencer.md R91). -/
def Obligations.SetccClassifies : Prop :=
  ∀ (s : State) (v : Word), (s.setcc v).cond = flagOf v ∧ SameRegs s (s.setcc v) [] ∧ (s.setcc v).pc = s.pc ∧
    SameMem s (s.setcc v) ∧ SameRun s (s.setcc v) ∧ SameIo s (s.setcc v) ∧ SameRest s (s.setcc v)

/-! ## Operate instructions (41_operate.md) -/

/-- ADD, register form (R110): its words, its result, its flags, its frame. -/
def Obligations.AddRegisterForm : Prop :=
  (∀ w : Word, w &&& 0xF020#16 = 0x1000#16 → decode w = .addReg (regAt w 9) (regAt w 6) (regAt w 0)) ∧
  ∀ (dr sr1 sr2 : Reg) (s : State), ∃ t, exec (.addReg dr sr1 sr2) s = .next t ∧ WritesDest s t dr (s.reg sr1 + s.reg sr2)

/-- ADD, immediate form (R111). -/
def Obligations.AddImmediateForm : Prop :=
  (∀ w : Word, w &&& 0xF020#16 = 0x1020#16 → decode w = .addImm (regAt w 9) (regAt w 6) (w.extractLsb' 0 5)) ∧
  ∀ (dr sr1 : Reg) (imm : BitVec 5) (s : State), ∃ t, exec (.addImm dr sr1 imm) s = .next t ∧
    WritesDest s t dr (s.reg sr1 + imm.signExtend 16)

/-- AND, register form (R112). -/
def Obligations.AndRegisterForm : Prop :=
  (∀ w : Word, w &&& 0xF020#16 = 0x5000#16 → decode w = .andReg (regAt w 9) (regAt w 6) (regAt w 0)) ∧
  ∀ (dr sr1 sr2 : Reg) (s : State), ∃ t, exec (.andReg dr sr1 sr2) s = .next t ∧ WritesDest s t dr (s.reg sr1 &&& s.reg sr2)

/-- AND, immediate form (R113). -/
def Obligations.AndImmediateForm : Prop :=
  (∀ w : Word, w &&& 0xF020#16 = 0x5020#16 → decode w = .andImm (regAt w 9) (regAt w 6) (w.extractLsb' 0 5)) ∧
  ∀ (dr sr1 : Reg) (imm : BitVec 5) (s : State), ∃ t, exec (.andImm dr sr1 imm) s = .next t ∧
    WritesDest s t dr (s.reg sr1 &&& imm.signExtend 16)

/-- NOT (R114). -/
def Obligations.NotComplements : Prop :=
  (∀ w : Word, w &&& 0xF000#16 = 0x9000#16 → decode w = .not (regAt w 9) (regAt w 6)) ∧
  ∀ (dr sr : Reg) (s : State), ∃ t, exec (.not dr sr) s = .next t ∧ WritesDest s t dr (s.reg sr ^^^ 0xFFFF#16)

/-! ## Control transfer (42_control.md) -/

/-- BR (R115): the branch is taken when `(instr[11:9] & COND) != 0`. -/
def Obligations.BranchTestsConditionBits : Prop :=
  (∀ w : Word, w &&& 0xF000#16 = 0x0000#16 →
    decode w = .br (w.getLsbD 11) (w.getLsbD 10) (w.getLsbD 9) (w.extractLsb' 0 9)) ∧
  ∀ (n z p : Bool) (off : BitVec 9) (s : State), ∃ t, exec (.br n z p off) s = .next t ∧
    Transfers s t
      (if ((if n then 4#16 else 0#16) + (if z then 2#16 else 0#16) + (if p then 1#16 else 0#16)) &&& s.cond ≠ 0#16
        then s.pc + off.signExtend 16 else s.pc) none

/-- JMP and RET (R116): RET is JMP with base register 7. -/
def Obligations.JumpThroughRegister : Prop :=
  (∀ w : Word, w &&& 0xF000#16 = 0xC000#16 → decode w = if regAt w 6 = 7 then .ret else .jmp (regAt w 6)) ∧
  (∀ (base : Reg) (s : State), ∃ t, exec (.jmp base) s = .next t ∧ Transfers s t (s.reg base) none) ∧
  (∀ s : State, ∃ t, exec .ret s = .next t ∧ Transfers s t (s.reg 7) none)

/-- JSR (R117). -/
def Obligations.JsrLinksAndBranches : Prop :=
  (∀ w : Word, w &&& 0xF800#16 = 0x4800#16 → decode w = .jsr (w.extractLsb' 0 11)) ∧
  ∀ (off : BitVec 11) (s : State), ∃ t, exec (.jsr off) s = .next t ∧
    Transfers s t (s.pc + off.signExtend 16) (some s.pc)

/-- JSRR (R118): the base register is read after the link write, so JSRR R7 goes on at the next instruction. -/
def Obligations.JsrrReadsBaseAfterLink : Prop :=
  (∀ w : Word, w &&& 0xF800#16 = 0x4000#16 → decode w = .jsrr (regAt w 6)) ∧
  ∀ (base : Reg) (s : State), ∃ t, exec (.jsrr base) s = .next t ∧
    Transfers s t (if base = 7 then s.pc else s.reg base) (some s.pc)

/-! ## Loads, LEA and stores (43_load_store.md) -/

/-- LD (R121, its pseudocode; its corner case at 0xFFF0 disagrees, log 21). -/
def Obligations.LdLoadsPcRelative : Prop :=
  (∀ w : Word, w &&& 0xF000#16 = 0x2000#16 → decode w = .ld (regAt w 9) (w.extractLsb' 0 9)) ∧
  ∀ (dr : Reg) (off : BitVec 9) (s : State), ∃ t, exec (.ld dr off) s = .next t ∧
    WritesDest s t dr (s.mem.read (s.pc + off.signExtend 16))

/-- LDI (R122): the pointer, then the word it names. -/
def Obligations.LdiLoadsThroughPointer : Prop :=
  (∀ w : Word, w &&& 0xF000#16 = 0xA000#16 → decode w = .ldi (regAt w 9) (w.extractLsb' 0 9)) ∧
  ∀ (dr : Reg) (off : BitVec 9) (s : State), ∃ t, exec (.ldi dr off) s = .next t ∧
    WritesDest s t dr (s.mem.read (s.mem.read (s.pc + off.signExtend 16)))

/-- LDR (R123): the base is read before DR is written. -/
def Obligations.LdrLoadsBasePlusOffset : Prop :=
  (∀ w : Word, w &&& 0xF000#16 = 0x6000#16 → decode w = .ldr (regAt w 9) (regAt w 6) (w.extractLsb' 0 6)) ∧
  ∀ (dr base : Reg) (off : BitVec 6) (s : State), ∃ t, exec (.ldr dr base off) s = .next t ∧
    WritesDest s t dr (s.mem.read (s.reg base + off.signExtend 16))

/-- LEA (R124): the address itself, with the flags set from it. -/
def Obligations.LeaLoadsAddressAndFlags : Prop :=
  (∀ w : Word, w &&& 0xF000#16 = 0xE000#16 → decode w = .lea (regAt w 9) (w.extractLsb' 0 9)) ∧
  ∀ (dr : Reg) (off : BitVec 9) (s : State), ∃ t, exec (.lea dr off) s = .next t ∧
    WritesDest s t dr (s.pc + off.signExtend 16)

/-- ST (R125): the address is the one the meaning computes, and it is `PC + sext_9(PCoffset9)`. -/
def Obligations.StStoresPcRelative : Prop :=
  (∀ w : Word, w &&& 0xF000#16 = 0x3000#16 → decode w = .st (regAt w 9) (w.extractLsb' 0 9)) ∧
  ∀ (sr : Reg) (off : BitVec 9) (s : State), s.pcRelative off = s.pc + off.signExtend 16 ∧
    ∃ t, exec (.st sr off) s = .next t ∧ Stores s t (s.pcRelative off) (s.reg sr)

/-- STI (R126): the address is the pointer read at `PC + sext_9(PCoffset9)`. -/
def Obligations.StiStoresThroughPointer : Prop :=
  (∀ w : Word, w &&& 0xF000#16 = 0xB000#16 → decode w = .sti (regAt w 9) (w.extractLsb' 0 9)) ∧
  ∀ (sr : Reg) (off : BitVec 9) (s : State), s.pointerAt off = s.mem.read (s.pc + off.signExtend 16) ∧
    ∃ t, exec (.sti sr off) s = .next t ∧ Stores s t (s.pointerAt off) (s.reg sr)

/-- STR (R127): the address is `x[BaseR] + sext_6(offset6)`. -/
def Obligations.StrStoresBasePlusOffset : Prop :=
  (∀ w : Word, w &&& 0xF000#16 = 0x7000#16 → decode w = .str (regAt w 9) (regAt w 6) (w.extractLsb' 0 6)) ∧
  ∀ (sr base : Reg) (off : BitVec 6) (s : State), s.baseOffset base off = s.reg base + off.signExtend 16 ∧
    ∃ t, exec (.str sr base off) s = .next t ∧ Stores s t (s.baseOffset base off) (s.reg sr)

/-- A load returns what a store to the same address wrote, for each store and each load form (R128). -/
def Obligations.LoadReturnsWhatStoreWrote : Prop :=
  ∀ (i j : Instr) (s t u : State) (ea : Word) (sr dr : Reg), storeOf s i = some (ea, sr) → exec i s = .next t →
    u.mem = t.mem → loadOf u j = some (ea, dr) → ∃ v, exec j u = .next v ∧ v.reg dr = s.reg sr

/-! ## TRAP and the routines (44_trap.md) -/

/-- TRAP (R129, D10): entry saves the post-increment PC in R7, PC and COND stay, and the vector selects the routine. -/
def Obligations.TrapSelectsRoutine : Prop :=
  (∀ (w : Word) (s : State), w &&& 0xF000#16 = 0xF000#16 → exec (decode w) s = exec (.trap (w.extractLsb' 0 8)) s) ∧
  (∀ s : State, exec (.trap 0x20#8) s = exec .getc s ∧ exec (.trap 0x21#8) s = exec .out s ∧ exec (.trap 0x22#8) s = exec .puts s ∧
    exec (.trap 0x23#8) s = exec .inEcho s ∧ exec (.trap 0x24#8) s = exec .putsp s ∧ exec (.trap 0x25#8) s = exec .halt s) ∧
  ∀ (v : BitVec 8) (s : State), ∃ t, exec (.trap v) s = .next t ∧
    TrapFrame s t (if v = 0x20#8 ∨ v = 0x23#8 then [0] else []) ∧
    (UnknownVector v → t.runState = .faulted ∧ t.fault = { cause := .trapUnknown, pc := s.pc - 1#16, word := s.ir })

/-- A vector outside 0x20 to 0x25 is the fault TRAP_UNKNOWN, with R7 already written (R137, D7, D8). -/
def Obligations.UnknownVectorFaults : Prop :=
  (∀ w : Word, w &&& 0xF000#16 = 0xF000#16 → UnknownVector (w.extractLsb' 0 8) → decode w = .trap (w.extractLsb' 0 8)) ∧
  ∀ (v : BitVec 8) (s : State), UnknownVector v →
    ∃ t, exec (.trap v) s = .next t ∧ t.reg 7 = s.pc ∧ Faults s t .trapUnknown [7]

/-- GETC with a byte supplied reads it into R0, high byte cleared (D11), no echo (R131); the input list is log 5's. -/
def Obligations.GetcReadsOneByte : Prop :=
  (∀ w : Word, w &&& 0xF0FF#16 = 0xF020#16 → decode w = .getc) ∧
  ∀ (s : State) (b : Byte) (rest : List Byte), s.input = b :: rest →
    ∃ t, exec .getc s = .next t ∧ t.reg 0 = b.setWidth 16 ∧ TrapFrame s t [0] ∧ SameRun s t ∧
      t.input = rest ∧ t.trace = s.trace ++ [.read b] ∧ t.activity = .idle

/-- OUT writes the low byte of R0 (R132). -/
def Obligations.OutWritesLowByte : Prop :=
  (∀ w : Word, w &&& 0xF0FF#16 = 0xF021#16 → decode w = .out) ∧
  ∀ s : State, ∃ t, exec .out s = .next t ∧ TrapFrame s t [] ∧ SameRun s t ∧ t.input = s.input ∧
    t.activity = s.activity ∧ t.trace = s.trace ++ [.write ((s.reg 0).extractLsb' 0 8)]

/-- PUTS writes the low byte of each word up to the 0x0000 word (R133, D12). -/
def Obligations.PutsWritesString : Prop :=
  (∀ w : Word, w &&& 0xF0FF#16 = 0xF022#16 → decode w = .puts) ∧
  ∀ (s : State) (k : Nat), StringAt s.mem (s.reg 0) k →
    ∃ t, exec .puts s = .next t ∧ TrapFrame s t [] ∧ SameRun s t ∧ t.input = s.input ∧ t.activity = .idle ∧
      t.trace = s.trace ++ (putsBytes s.mem (s.reg 0) k).map .write

/-- IN with a byte supplied writes the prompt, reads the byte, echoes it, and puts it in R0 (R134, D11, D14); the input list is log 5's. -/
def Obligations.InPromptsReadsAndEchoes : Prop :=
  (∀ w : Word, w &&& 0xF0FF#16 = 0xF023#16 → decode w = .inEcho) ∧
  ∀ (s : State) (b : Byte) (rest : List Byte), s.input = b :: rest →
    ∃ t, exec .inEcho s = .next t ∧ t.reg 0 = b.setWidth 16 ∧ TrapFrame s t [0] ∧ SameRun s t ∧
      t.input = rest ∧ t.activity = .idle ∧
      t.trace = s.trace ++ s.params.inPrompt.map .write ++ [.read b, .write b]

/-- PUTSP writes the low byte and then, unless it is 0x00, the high byte of each word up to the 0x0000 word (R135, D13). -/
def Obligations.PutspWritesPackedString : Prop :=
  (∀ w : Word, w &&& 0xF0FF#16 = 0xF024#16 → decode w = .putsp) ∧
  ∀ (s : State) (k : Nat), StringAt s.mem (s.reg 0) k →
    ∃ t, exec .putsp s = .next t ∧ TrapFrame s t [] ∧ SameRun s t ∧ t.input = s.input ∧ t.activity = .idle ∧
      t.trace = s.trace ++ (putspBytes s.mem (s.reg 0) k).map .write

/-- HALT: one Flush event and run state HALTED, R7 and PC at the next address, no further step (R136, D16). -/
def Obligations.HaltFlushesAndStops : Prop :=
  (∀ w : Word, w &&& 0xF0FF#16 = 0xF025#16 → decode w = .halt) ∧
  ∀ s : State, ∃ t, exec .halt s = .next t ∧ TrapFrame s t [] ∧ t.runState = .halted ∧ t.fault = s.fault ∧ t.input = s.input ∧
    t.activity = s.activity ∧ t.trace = s.trace ++ [.flush] ∧ ∀ u, step t.retire ≠ .next u

/-- Waiting for input, the model's form of "blocks until the host supplies a byte" (logs 5, 6): with no byte supplied GETC and IN stop at
their ReadByte (IN after its prompt); a step then changes nothing while there is none, and completes the routine when there is one. That
IR is then 0x0000 is the model's choice too (log 8). -/
def Obligations.ReadWaitsForHost : Prop :=
  (∀ s : State, s.input = [] →
    (∃ t, exec .getc s = .next t ∧ t.activity = .awaitingByte .getc ∧ TrapFrame s t [] ∧ SameRun s t ∧ t.input = [] ∧
      t.trace = s.trace) ∧
    ∃ t, exec .inEcho s = .next t ∧ t.activity = .awaitingByte .inEcho ∧ TrapFrame s t [] ∧ SameRun s t ∧ t.input = [] ∧
      t.trace = s.trace ++ s.params.inPrompt.map .write) ∧
  (∀ (s : State) (r : ReadRoutine), s.runState = .running → s.activity = .awaitingByte r → s.input = [] → step s = .next s) ∧
  ∀ (s : State) (r : ReadRoutine) (b : Byte) (rest : List Byte), s.runState = .running → s.activity = .awaitingByte r →
    s.input = b :: rest →
    ∃ t, step s = .next t ∧ t.activity = .idle ∧ t.input = rest ∧ t.reg 0 = b.setWidth 16 ∧ SameRegs s t [0] ∧
      t.pc = s.pc ∧ t.cond = s.cond ∧ SameMem s t ∧ SameRun s t ∧ t.params = s.params ∧ t.ir = 0#16 ∧
      t.trace = s.trace ++ match r with
        | .getc => [.read b]
        | .inEcho => [.read b, .write b]

/-- A string with no 0x0000 word in the whole of memory is never finished: the block stays inside the routine, RUNNING, and every
step writes at least 65536 bytes more; the lap is the model's (log 7). -/
def Obligations.EndlessStringNeverReturns : Prop :=
  (∀ s : State, (∀ a, s.mem.read a ≠ 0x0000#16) →
    (∃ t, exec .puts s = .next t ∧ t.activity = .writingString .puts (s.reg 0) ∧ TrapFrame s t [] ∧ SameRun s t ∧
      t.trace = s.trace ++ (putsBytes s.mem (s.reg 0) 65536).map .write) ∧
    ∃ t, exec .putsp s = .next t ∧ t.activity = .writingString .putsp (s.reg 0) ∧ TrapFrame s t [] ∧ SameRun s t ∧
      t.trace = s.trace ++ (putspBytes s.mem (s.reg 0) 65536).map .write) ∧
  ∀ (s : State) (f : StringFormat) (a : Word), (∀ b, s.mem.read b ≠ 0x0000#16) → s.runState = .running →
    s.activity = .writingString f a →
    ∃ t, step s = .next t ∧ t.activity = .writingString f a ∧ SameRun s t ∧ SameMem s t ∧ SameRegs s t [] ∧ t.pc = s.pc ∧
      t.cond = s.cond ∧ s.trace.length + 65536 ≤ t.trace.length

/-! ## RES, RTI and faults (45_reserved.md, 60_exceptions.md) -/

/-- RES faults (45_reserved.md R141). -/
def Obligations.ResFaults : Prop :=
  (∀ w : Word, w &&& 0xF000#16 = 0xD000#16 → decode w = .res) ∧
  ∀ s : State, ∃ t, exec .res s = .next t ∧ Faults s t .res []

/-- RTI faults (45_reserved.md R142). -/
def Obligations.RtiFaults : Prop :=
  (∀ w : Word, w &&& 0xF000#16 = 0x8000#16 → decode w = .rti) ∧
  ∀ s : State, ∃ t, exec .rti s = .next t ∧ Faults s t .rti []

/-- A step enters FAULTED exactly on a RES word, an RTI word or a TRAP word with an unknown vector, and the record then names the
cause, the address and the word (60_exceptions.md R144, R145, R148; D7). -/
def Obligations.FaultExactlyOnFatalWords : Prop :=
  ∀ s : State, Fetches s → ∃ t, step s = .next t ∧
    (t.runState = .faulted ↔
      (s.mem.read s.pc &&& 0xF000#16 = 0xD000#16 ∨ s.mem.read s.pc &&& 0xF000#16 = 0x8000#16 ∨
        (s.mem.read s.pc &&& 0xF000#16 = 0xF000#16 ∧ UnknownVector ((s.mem.read s.pc).extractLsb' 0 8)))) ∧
    (t.runState = .faulted → t.fault.pc = s.pc ∧ t.fault.word = s.mem.read s.pc ∧
      t.fault.cause.code = (if s.mem.read s.pc &&& 0xF000#16 = 0xD000#16 then 1
        else if s.mem.read s.pc &&& 0xF000#16 = 0x8000#16 then 2 else 3)) ∧
    (t.runState ≠ .faulted → t.fault = s.fault)

/-- REG_INDEX cannot be raised: no step writes it into the record (60_exceptions.md R147). -/
def Obligations.RegIndexNeverRaised : Prop :=
  ∀ s t : State, step s = .next t → t.fault.cause = .regIndex → s.fault.cause = .regIndex

/-- In FAULTED the host observes the fault record and the I/O events, and no register or memory (60_exceptions.md R146, 10_state.md
R41, R42). -/
def Obligations.FaultedShowsRecordAndTraceOnly : Prop :=
  ∀ s t : State, s.runState = .faulted → t.runState = .faulted → s.fault = t.fault → s.trace = t.trace →
    s.observation = t.observation ∧ s.observation.view = none ∧ s.observation.status = (.faulted, some s.fault)

/-! ## The sequencer (40_sequencer.md) -/

/-- One step (R96): the word at PC goes into IR, PC is incremented modulo 65536, and the decoded instruction is executed on that state;
around it the model only clears IR at the end of the step (log 8). -/
def Obligations.StepRunsDecodedInstruction : Prop :=
  ∀ s : State, Fetches s →
    step s = onNext State.retire (exec (decode (s.mem.read s.pc)) { s with ir := s.mem.read s.pc, pc := s.pc + 1#16 })

/-- The top-of-address-space guard (R99): a step that begins with PC = 0xFFFF halts and changes nothing else; with TOP_GUARD = NONE it
never fires and PC wraps at the fetch (D6). -/
def Obligations.TopGuardHaltsBeforeFetch : Prop :=
  ∀ s : State, s.runState = .running → s.activity = .idle → s.pc = 0xFFFF#16 →
    (s.params.topGuard = .atFFFF → step s = .next { s with runState := .halted }) ∧
    (s.params.topGuard = .off →
      step s = onNext State.retire (exec (decode (s.mem.read 0xFFFF#16)) { s with ir := s.mem.read 0xFFFF#16, pc := 0x0000#16 }))

/-- HALTED and FAULTED are terminal: no step exists (R105). -/
def Obligations.StoppedBlockHasNoStep : Prop :=
  ∀ s : State, s.runState = .halted ∨ s.runState = .faulted → ∀ t, step s ≠ .next t

/-- Every instruction has a next state on every state, and a RUNNING block always steps: the decode has no unknown outcome and nothing
is refused (R102, 30_encoding.md R63). -/
def Obligations.RunningBlockAlwaysSteps : Prop :=
  (∀ (i : Instr) (s : State), ∃ t, exec i s = .next t) ∧ ∀ s : State, s.runState = .running → ∃ t, step s = .next t

/-- Exactly ADD, AND, NOT, LD, LDI, LDR and LEA write COND, each by setcc of the register it wrote (10_state.md R29). -/
def Obligations.OnlySevenInstructionsWriteCond : Prop :=
  (∀ (i : Instr) (s t : State), exec i s = .next t → setsFlags i = false → t.cond = s.cond) ∧
  (∀ (i : Instr) (s t : State), exec i s = .next t → setsFlags i = true →
    ∃ dr, writtenRegs i = [dr] ∧ t.cond = (s.setcc (t.reg dr)).cond) ∧
  ∀ s t : State, step s = .next t → s.activity ≠ .idle → t.cond = s.cond

/-- BR alone reads COND (10_state.md R28): for any other instruction, and for a step inside a trap routine, starting from another COND
changes nothing but COND. -/
def Obligations.OnlyBranchReadsCond : Prop :=
  (∀ (i : Instr) (s t : State) (c : Word), (∀ n z p off, i ≠ .br n z p off) → exec i s = .next t →
    exec i { s with cond := c } = .next (if setsFlags i then t else { t with cond := c })) ∧
  ∀ (s t : State) (c : Word), step s = .next t → s.activity ≠ .idle → step { s with cond := c } = .next { t with cond := c }

/-- No instruction writes a general register but those 10_state.md R20 lists for it, and a step inside a routine none but R0. -/
def Obligations.OnlyListedRegistersWritten : Prop :=
  (∀ (i : Instr) (s t : State), exec i s = .next t → SameRegs s t (writtenRegs i)) ∧
  ∀ s t : State, step s = .next t → s.activity ≠ .idle → SameRegs s t [0]

/-- After the fetch increment only BR, JMP, JSR and JSRR write PC (10_state.md R24). -/
def Obligations.OnlyControlTransfersWritePc : Prop :=
  (∀ (i : Instr) (s t : State), exec i s = .next t → writesPc i = false → t.pc = s.pc) ∧
  ∀ s t : State, step s = .next t → s.activity ≠ .idle → t.pc = s.pc

/-- Only ST, STI and STR change memory, and only at the address they compute (20_memory.md R52, 44_trap.md R130). -/
def Obligations.OnlyStoresChangeMemory : Prop :=
  (∀ (i : Instr) (s t : State), exec i s = .next t →
    (storeOf s i = none → SameMem s t) ∧
    ∀ ea sr, storeOf s i = some (ea, sr) → t.mem.read ea = s.reg sr ∧ ∀ a, a ≠ ea → t.mem.read a = s.mem.read a) ∧
  ∀ s t : State, step s = .next t → s.activity ≠ .idle → SameMem s t

/-- A step only adds events to the end of the trace and takes input from its front, and never changes a parameter (44_trap.md R139,
00_scope.md R6). -/
def Obligations.StepExtendsTraceAndConsumesInput : Prop :=
  ∀ s t : State, step s = .next t → s.trace <+: t.trace ∧ t.input <:+ s.input ∧ t.params = s.params

/-- Fetch sees the store of the instruction before it (20_memory.md R60): after a store to the address of the next instruction, the next
fetch reads the stored word. -/
def Obligations.FetchSeesEarlierStore : Prop :=
  ∀ (s : State) (i : Instr) (sr : Reg), Fetches s → decode (s.mem.read s.pc) = i → storeOf s.fetch i = some (s.pc + 1#16, sr) →
    ∃ t, step s = .next t ∧ t.pc = s.pc + 1#16 ∧ t.fetch.ir = s.reg sr ∧
      (Fetches t → step t = onNext State.retire (exec (decode (s.reg sr)) t.fetch))

/-! ## Reset, launch and invariants -/

/-- The reset state (70_reset_and_hazards.md R162, R164 to R167), for every parameter and launch memory, from the launch and from the
control port; State.reset is the one with the defaults and memory all zero (D4, D5, D6, D14). The values of fault_pc, fault_word and IR are the
model's choice (logs 8, 9) and are not stated here. That the control port's reset may come in any state and keeps every parameter but
START_PC is the model's choice as well (log 19). -/
def Obligations.ResetState : Prop :=
  (∀ (p : Params) (m : Memory) (s : State), s = State.launched p m ∨ (∃ u : State, s = u.controlReset p.startPc ∧ u.mem = m ∧
      p = { u.params with startPc := p.startPc }) →
    (∀ r, s.reg r = 0x0000#16) ∧ s.pc = p.startPc ∧ s.cond = p.condReset ∧ s.runState = .running ∧ s.fault.cause = .none ∧
      s.mem = m ∧ s.trace = [] ∧ s.params = p) ∧
  State.reset.pc = 0x3000#16 ∧ State.reset.cond = 0x0002#16 ∧ (∀ a, State.reset.mem.read a = 0x0000#16) ∧
  State.reset.params.topGuard = .atFFFF ∧ State.reset.params.inPrompt = []

/-- The launch memory of an image stream (70_reset_and_hazards.md R170): the first word is the origin, the words after it stand at consecutive
addresses from there, and 0x0000 everywhere else. The bound on the words is R171's (D18). That the memory is in canonical form is a
matter of the model's own data (log 1). -/
def Obligations.LaunchMemoryHoldsImage : Prop :=
  ∀ (o : Word) (ws : List Word), o.toNat + ws.length ≤ 65536 →
    ∃ image, loadImage (some ((o :: ws).flatMap bigEndian)) = .ok image ∧ image.origin = o ∧ image.mem.wf ∧
      (∀ i (h : i < ws.length), image.mem.read (BitVec.ofNat 16 (o.toNat + i)) = ws[i]) ∧
      ∀ a : Word, a.toNat < o.toNat ∨ o.toNat + ws.length ≤ a.toNat → image.mem.read a = 0x0000#16

/-- The image is a stream of big-endian words (20_memory.md R49), and the images of 70_reset_and_hazards.md R171 are refused (D18). -/
def Obligations.ImageReadBigEndianOrRefused : Prop :=
  (∀ b0 b1 : Byte, (wordOfBytes b0 b1).toNat = b0.toNat * 256 + b1.toNat) ∧
  (∀ ws : List Word, wordsOfBytes (ws.flatMap bigEndian) = some ws) ∧
  loadImage none = .error .unreadable ∧ loadImage (some []) = .error .emptyStream ∧
  (∀ bytes : List Byte, bytes.length % 2 = 1 → loadImage (some bytes) = .error .oddBytes) ∧
  ∀ (o : Word) (ws : List Word), 65536 < o.toNat + ws.length →
    loadImage (some ((o :: ws).flatMap bigEndian)) = .error .pastTop

/-- The invariant holds right after reset. -/
def Obligations.ResetMeetsInv : Prop := State.reset.Inv

/-- Every step keeps the invariant, from every state that meets it. -/
def Obligations.StepKeepsInv : Prop := ∀ s t : State, s.Inv → step s = .next t → t.Inv

/-- Every state a run reaches, from any launch with a memory in canonical form and whatever bytes the host supplies, meets the
invariant and keeps the parameters it was launched with. The canonical form and the list of supplied bytes are the model's (logs 1, 5). -/
def Obligations.ReachableStatesMeetInv : Prop :=
  ∀ (p : Params) (m : Memory) (s : State), m.wf → Reachable p m s → s.Inv ∧ s.params = p

/-- The very next step after a table word is placed fetches and runs it: the model's stand-in for the loader (log 14). -/
def Obligations.PlacedWordRunsNext : Prop :=
  ∀ (s : State) (nbits w : Nat) (i : Instr), decodeTableWord nbits w = some i →
    Fetches (s.withFetchWord nbits w) ∧
    step (s.withFetchWord nbits w) = onNext State.retire (exec i (s.withFetchWord nbits w).fetch)
end

