-- ==== Sys2Proof/Laws/Memory.lean ====
section
/-! SUPPORT. The laws of memory: a read after a write, and the canonical form that every write keeps. -/

namespace Sys2Proof.Machine

theorem lookupCell_filter_ne (cells : List Cell) (a b : Nat) (h : b ≠ a) :
    lookupCell (cells.filter (fun c => c.1 != a)) b = lookupCell cells b := by
  induction cells with
  | nil => rfl
  | cons c rest ih =>
    obtain ⟨d, u⟩ := c
    by_cases hd : d = a
    · subst hd; simp [lookupCell, ih, h]
    · simp [hd, lookupCell, ih]

theorem lookupCell_filter_self (cells : List Cell) (a : Nat) :
    lookupCell (cells.filter (fun c => c.1 != a)) a = 0#16 := by
  induction cells with
  | nil => rfl
  | cons c rest ih =>
    obtain ⟨d, u⟩ := c
    by_cases hd : d = a
    · simpa [hd] using ih
    · have : ¬ a = d := fun h => hd h.symm
      simpa [hd, lookupCell, this] using ih

theorem lookupCell_addCell (cells : List Cell) (a b : Nat) (v : Word) (h : lookupCell cells a = 0#16 ∧ ∀ c ∈ cells, c.1 ≠ a) :
    lookupCell (addCell cells a v) b = if b = a then v else lookupCell cells b := by
  induction cells with
  | nil => rfl
  | cons c rest ih =>
    obtain ⟨d, u⟩ := c
    have hd : d ≠ a := h.2 (d, u) (by simp)
    have hrest : ∀ c ∈ rest, c.1 ≠ a := fun c hc => h.2 c (by simp [hc])
    have hlook : lookupCell rest a = 0#16 := by simpa [lookupCell, Ne.symm hd] using h.1
    simp only [addCell]
    split
    · simp [lookupCell]
    · simp only [lookupCell, ih ⟨hlook, hrest⟩]
      by_cases hb : b = d
      · subst hb; simp [hd]
      · simp [hb]

theorem lookupCell_setCell (cells : List Cell) (a b : Nat) (v : Word) :
    lookupCell (setCell cells a v) b = if b = a then v else lookupCell cells b := by
  have hfilter : ∀ c ∈ cells.filter (fun c => c.1 != a), c.1 ≠ a := by simp
  unfold setCell
  by_cases hb : b = a
  · subst hb
    by_cases hv : v = 0#16
    · simp [hv, lookupCell_filter_self]
    · simp [hv, lookupCell_addCell _ _ _ _ ⟨lookupCell_filter_self cells b, hfilter⟩]
  · by_cases hv : v = 0#16
    · simp [hv, hb, lookupCell_filter_ne _ _ _ hb]
    · simp [hv, hb, lookupCell_addCell _ _ _ _ ⟨lookupCell_filter_self cells a, hfilter⟩, lookupCell_filter_ne _ _ _ hb]

/-- A read after a write (20_memory.md R46, R47). -/
@[simp] theorem Memory.read_write (m : Memory) (a b v : Word) :
    (m.write a v).read b = if b = a then v else m.read b := by
  simp only [Memory.read, Memory.write, lookupCell_setCell, BitVec.toNat_inj]

theorem mem_addCell {cells : List Cell} {a : Nat} {v : Word} {c : Cell} (h : c ∈ addCell cells a v) :
    c = (a, v) ∨ c ∈ cells := by
  induction cells with
  | nil => simpa [addCell] using h
  | cons d rest ih =>
    simp only [addCell] at h
    split at h
    · simpa using h
    · rcases List.mem_cons.1 h with h | h
      · exact .inr (by simp [h])
      · rcases ih h with h | h
        · exact .inl h
        · exact .inr (by simp [h])

theorem addCell_rising {cells : List Cell} {a : Nat} {v : Word} (h : cells.Pairwise (fun c d => c.1 < d.1))
    (ha : ∀ c ∈ cells, c.1 ≠ a) : (addCell cells a v).Pairwise (fun c d => c.1 < d.1) := by
  induction cells with
  | nil => simp [addCell]
  | cons d rest ih =>
    rw [List.pairwise_cons] at h
    have hd : d.1 ≠ a := ha d (by simp)
    simp only [addCell]
    split
    · next hlt =>
      refine List.pairwise_cons.2 ⟨fun c hc => ?_, List.pairwise_cons.2 h⟩
      rcases List.mem_cons.1 hc with hc | hc
      · subst hc; exact hlt
      · exact Nat.lt_trans hlt (h.1 c hc)
    · next hnot =>
      refine List.pairwise_cons.2 ⟨fun c hc => ?_, ih h.2 (fun c hc => ha c (by simp [hc]))⟩
      rcases mem_addCell hc with hc | hc
      · subst hc; show d.1 < a; change ¬ a < d.1 at hnot; omega
      · exact h.1 c hc

/-- The empty memory has the canonical form. -/
theorem Memory.wf_empty : Memory.wf { cells := [] } := by simp [Memory.wf]

/-- A write keeps the canonical form. -/
theorem Memory.wf_write {m : Memory} (h : m.wf) (a v : Word) : (m.write a v).wf := by
  have hpair : (m.cells.filter (fun c => c.1 != a.toNat)).Pairwise (fun c d => c.1 < d.1) := h.1.filter _
  have hcell : ∀ c ∈ m.cells.filter (fun c => c.1 != a.toNat), c.1 < 65536 ∧ c.2 ≠ 0#16 :=
    fun c hc => h.2 c (List.mem_filter.1 hc).1
  by_cases hv : v = 0#16
  · simp only [Memory.wf, Memory.write, setCell, hv, if_true]
    exact ⟨hpair, hcell⟩
  · simp only [Memory.wf, Memory.write, setCell, hv, if_false]
    refine ⟨addCell_rising hpair (by simp), fun c hc => ?_⟩
    rcases mem_addCell hc with hc | hc
    · subst hc; exact ⟨a.isLt, hv⟩
    · exact hcell c hc

theorem lookupCell_of_lt {cells : List Cell} {a : Nat} (h : ∀ c ∈ cells, a < c.1) : lookupCell cells a = 0#16 := by
  induction cells with
  | nil => rfl
  | cons c rest ih =>
    have := h c (by simp)
    have hne : a ≠ c.1 := by omega
    simpa [lookupCell, hne] using ih (fun d hd => h d (by simp [hd]))

theorem cells_eq_of_lookup_eq {l k : List Cell}
    (hl : l.Pairwise (fun c d => c.1 < d.1) ∧ ∀ c ∈ l, c.1 < 65536 ∧ c.2 ≠ 0#16)
    (hk : k.Pairwise (fun c d => c.1 < d.1) ∧ ∀ c ∈ k, c.1 < 65536 ∧ c.2 ≠ 0#16)
    (h : ∀ a, a < 65536 → lookupCell l a = lookupCell k a) : l = k := by
  induction l generalizing k with
  | nil =>
    cases k with
    | nil => rfl
    | cons d ks =>
      have hd := hk.2 d (by simp)
      exact absurd (by simpa [lookupCell] using (h d.1 hd.1).symm) hd.2
  | cons c ls ih =>
    have hc := hl.2 c (by simp)
    have hcls := (List.pairwise_cons.1 hl.1)
    cases k with
    | nil => exact absurd (by simpa [lookupCell] using h c.1 hc.1) hc.2
    | cons d ks =>
      have hd := hk.2 d (by simp)
      have hdks := (List.pairwise_cons.1 hk.1)
      have hkey : c.1 = d.1 := by
        rcases Nat.lt_trichotomy c.1 d.1 with hlt | heq | hgt
        · have hz : lookupCell (d :: ks) c.1 = 0#16 := lookupCell_of_lt (fun e he => by
            rcases List.mem_cons.1 he with he | he
            · exact he ▸ hlt
            · exact Nat.lt_trans hlt (hdks.1 e he))
          exact absurd (by rw [← hz, ← h c.1 hc.1]; simp [lookupCell]) hc.2
        · exact heq
        · have hz : lookupCell (c :: ls) d.1 = 0#16 := lookupCell_of_lt (fun e he => by
            rcases List.mem_cons.1 he with he | he
            · exact he ▸ hgt
            · exact Nat.lt_trans hgt (hcls.1 e he))
          exact absurd (by rw [← hz, h d.1 hd.1]; simp [lookupCell]) hd.2
      have hval : c.2 = d.2 := by simpa [lookupCell, hkey] using h c.1 hc.1
      have hcd : c = d := Prod.ext hkey hval
      subst hcd
      refine congrArg (c :: ·) (ih ⟨hcls.2, fun e he => hl.2 e (by simp [he])⟩
        ⟨hdks.2, fun e he => hk.2 e (by simp [he])⟩ (fun a ha => ?_))
      by_cases hac : a = c.1
      · subst hac
        rw [lookupCell_of_lt hcls.1, lookupCell_of_lt hdks.1]
      · simpa [lookupCell, hac] using h a ha

/-- Two memories in the canonical form that read alike are equal data. -/
theorem Memory.eq_of_read_eq {m k : Memory} (hm : m.wf) (hk : k.wf) (h : ∀ a, m.read a = k.read a) : m = k := by
  have hcells : m.cells = k.cells := cells_eq_of_lookup_eq hm hk (fun a ha => by
    have := h (BitVec.ofNat 16 a)
    simpa [Memory.read, BitVec.toNat_ofNat, Nat.mod_eq_of_lt ha] using this)
  cases m; cases k; simp_all

end Sys2Proof.Machine
end

