-- ==== Sys2Proof/Laws/State.lean ====
section
/-! SUPPORT. What each update of the state does to each field, one lemma a field, so that no later proof unfolds a record update. -/

namespace Sys2Proof.Machine

/-! ## storeWord -/

@[simp] theorem State.storeWord_regs (s : State) (a v : Word) : (s.storeWord a v).regs = s.regs := rfl
@[simp] theorem State.storeWord_reg (s : State) (a v : Word) (r : Reg) : (s.storeWord a v).reg r = s.reg r := rfl
@[simp] theorem State.storeWord_pc (s : State) (a v : Word) : (s.storeWord a v).pc = s.pc := rfl
@[simp] theorem State.storeWord_cond (s : State) (a v : Word) : (s.storeWord a v).cond = s.cond := rfl
@[simp] theorem State.storeWord_ir (s : State) (a v : Word) : (s.storeWord a v).ir = s.ir := rfl
@[simp] theorem State.storeWord_mem (s : State) (a v : Word) : (s.storeWord a v).mem = s.mem.write a v := rfl
@[simp] theorem State.storeWord_runState (s : State) (a v : Word) : (s.storeWord a v).runState = s.runState := rfl
@[simp] theorem State.storeWord_fault (s : State) (a v : Word) : (s.storeWord a v).fault = s.fault := rfl
@[simp] theorem State.storeWord_trace (s : State) (a v : Word) : (s.storeWord a v).trace = s.trace := rfl
@[simp] theorem State.storeWord_input (s : State) (a v : Word) : (s.storeWord a v).input = s.input := rfl
@[simp] theorem State.storeWord_activity (s : State) (a v : Word) : (s.storeWord a v).activity = s.activity := rfl
@[simp] theorem State.storeWord_params (s : State) (a v : Word) : (s.storeWord a v).params = s.params := rfl

/-! ## jumpTo -/

@[simp] theorem State.jumpTo_regs (s : State) (t : Word) : (s.jumpTo t).regs = s.regs := rfl
@[simp] theorem State.jumpTo_reg (s : State) (t : Word) (r : Reg) : (s.jumpTo t).reg r = s.reg r := rfl
@[simp] theorem State.jumpTo_pc (s : State) (t : Word) : (s.jumpTo t).pc = t := rfl
@[simp] theorem State.jumpTo_cond (s : State) (t : Word) : (s.jumpTo t).cond = s.cond := rfl
@[simp] theorem State.jumpTo_ir (s : State) (t : Word) : (s.jumpTo t).ir = s.ir := rfl
@[simp] theorem State.jumpTo_mem (s : State) (t : Word) : (s.jumpTo t).mem = s.mem := rfl
@[simp] theorem State.jumpTo_runState (s : State) (t : Word) : (s.jumpTo t).runState = s.runState := rfl
@[simp] theorem State.jumpTo_fault (s : State) (t : Word) : (s.jumpTo t).fault = s.fault := rfl
@[simp] theorem State.jumpTo_trace (s : State) (t : Word) : (s.jumpTo t).trace = s.trace := rfl
@[simp] theorem State.jumpTo_input (s : State) (t : Word) : (s.jumpTo t).input = s.input := rfl
@[simp] theorem State.jumpTo_activity (s : State) (t : Word) : (s.jumpTo t).activity = s.activity := rfl
@[simp] theorem State.jumpTo_params (s : State) (t : Word) : (s.jumpTo t).params = s.params := rfl

/-! ## emit -/

@[simp] theorem State.emit_regs (s : State) (e : IoEvent) : (s.emit e).regs = s.regs := rfl
@[simp] theorem State.emit_reg (s : State) (e : IoEvent) (r : Reg) : (s.emit e).reg r = s.reg r := rfl
@[simp] theorem State.emit_pc (s : State) (e : IoEvent) : (s.emit e).pc = s.pc := rfl
@[simp] theorem State.emit_cond (s : State) (e : IoEvent) : (s.emit e).cond = s.cond := rfl
@[simp] theorem State.emit_ir (s : State) (e : IoEvent) : (s.emit e).ir = s.ir := rfl
@[simp] theorem State.emit_mem (s : State) (e : IoEvent) : (s.emit e).mem = s.mem := rfl
@[simp] theorem State.emit_runState (s : State) (e : IoEvent) : (s.emit e).runState = s.runState := rfl
@[simp] theorem State.emit_fault (s : State) (e : IoEvent) : (s.emit e).fault = s.fault := rfl
@[simp] theorem State.emit_trace (s : State) (e : IoEvent) : (s.emit e).trace = s.trace ++ [e] := rfl
@[simp] theorem State.emit_input (s : State) (e : IoEvent) : (s.emit e).input = s.input := rfl
@[simp] theorem State.emit_activity (s : State) (e : IoEvent) : (s.emit e).activity = s.activity := rfl
@[simp] theorem State.emit_params (s : State) (e : IoEvent) : (s.emit e).params = s.params := rfl

/-! ## writeBytes -/

@[simp] theorem State.writeBytes_regs (s : State) (bs : List Byte) : (s.writeBytes bs).regs = s.regs := rfl
@[simp] theorem State.writeBytes_reg (s : State) (bs : List Byte) (r : Reg) : (s.writeBytes bs).reg r = s.reg r := rfl
@[simp] theorem State.writeBytes_pc (s : State) (bs : List Byte) : (s.writeBytes bs).pc = s.pc := rfl
@[simp] theorem State.writeBytes_cond (s : State) (bs : List Byte) : (s.writeBytes bs).cond = s.cond := rfl
@[simp] theorem State.writeBytes_ir (s : State) (bs : List Byte) : (s.writeBytes bs).ir = s.ir := rfl
@[simp] theorem State.writeBytes_mem (s : State) (bs : List Byte) : (s.writeBytes bs).mem = s.mem := rfl
@[simp] theorem State.writeBytes_runState (s : State) (bs : List Byte) : (s.writeBytes bs).runState = s.runState := rfl
@[simp] theorem State.writeBytes_fault (s : State) (bs : List Byte) : (s.writeBytes bs).fault = s.fault := rfl
@[simp] theorem State.writeBytes_trace (s : State) (bs : List Byte) : (s.writeBytes bs).trace = s.trace ++ bs.map .write := rfl
@[simp] theorem State.writeBytes_input (s : State) (bs : List Byte) : (s.writeBytes bs).input = s.input := rfl
@[simp] theorem State.writeBytes_activity (s : State) (bs : List Byte) : (s.writeBytes bs).activity = s.activity := rfl
@[simp] theorem State.writeBytes_params (s : State) (bs : List Byte) : (s.writeBytes bs).params = s.params := rfl

/-! ## takeByte -/

@[simp] theorem State.takeByte_regs (s : State) (b : Byte) (rest : List Byte) : (s.takeByte b rest).regs = s.regs := rfl
@[simp] theorem State.takeByte_reg (s : State) (b : Byte) (rest : List Byte) (r : Reg) : (s.takeByte b rest).reg r = s.reg r := rfl
@[simp] theorem State.takeByte_pc (s : State) (b : Byte) (rest : List Byte) : (s.takeByte b rest).pc = s.pc := rfl
@[simp] theorem State.takeByte_cond (s : State) (b : Byte) (rest : List Byte) : (s.takeByte b rest).cond = s.cond := rfl
@[simp] theorem State.takeByte_ir (s : State) (b : Byte) (rest : List Byte) : (s.takeByte b rest).ir = s.ir := rfl
@[simp] theorem State.takeByte_mem (s : State) (b : Byte) (rest : List Byte) : (s.takeByte b rest).mem = s.mem := rfl
@[simp] theorem State.takeByte_runState (s : State) (b : Byte) (rest : List Byte) : (s.takeByte b rest).runState = s.runState := rfl
@[simp] theorem State.takeByte_fault (s : State) (b : Byte) (rest : List Byte) : (s.takeByte b rest).fault = s.fault := rfl
@[simp] theorem State.takeByte_trace (s : State) (b : Byte) (rest : List Byte) : (s.takeByte b rest).trace = s.trace ++ [.read b] := rfl
@[simp] theorem State.takeByte_input (s : State) (b : Byte) (rest : List Byte) : (s.takeByte b rest).input = rest := rfl
@[simp] theorem State.takeByte_activity (s : State) (b : Byte) (rest : List Byte) : (s.takeByte b rest).activity = .idle := rfl
@[simp] theorem State.takeByte_params (s : State) (b : Byte) (rest : List Byte) : (s.takeByte b rest).params = s.params := rfl

/-! ## await -/

@[simp] theorem State.await_regs (s : State) (r : ReadRoutine) : (s.await r).regs = s.regs := rfl
@[simp] theorem State.await_reg (s : State) (w : ReadRoutine) (r : Reg) : (s.await w).reg r = s.reg r := rfl
@[simp] theorem State.await_pc (s : State) (r : ReadRoutine) : (s.await r).pc = s.pc := rfl
@[simp] theorem State.await_cond (s : State) (r : ReadRoutine) : (s.await r).cond = s.cond := rfl
@[simp] theorem State.await_ir (s : State) (r : ReadRoutine) : (s.await r).ir = s.ir := rfl
@[simp] theorem State.await_mem (s : State) (r : ReadRoutine) : (s.await r).mem = s.mem := rfl
@[simp] theorem State.await_runState (s : State) (r : ReadRoutine) : (s.await r).runState = s.runState := rfl
@[simp] theorem State.await_fault (s : State) (r : ReadRoutine) : (s.await r).fault = s.fault := rfl
@[simp] theorem State.await_trace (s : State) (r : ReadRoutine) : (s.await r).trace = s.trace := rfl
@[simp] theorem State.await_input (s : State) (r : ReadRoutine) : (s.await r).input = s.input := rfl
@[simp] theorem State.await_activity (s : State) (r : ReadRoutine) : (s.await r).activity = .awaitingByte r := rfl
@[simp] theorem State.await_params (s : State) (r : ReadRoutine) : (s.await r).params = s.params := rfl

/-! ## halt -/

@[simp] theorem State.halt_regs (s : State) : (s.halt).regs = s.regs := rfl
@[simp] theorem State.halt_reg (s : State) (r : Reg) : (s.halt).reg r = s.reg r := rfl
@[simp] theorem State.halt_pc (s : State) : (s.halt).pc = s.pc := rfl
@[simp] theorem State.halt_cond (s : State) : (s.halt).cond = s.cond := rfl
@[simp] theorem State.halt_ir (s : State) : (s.halt).ir = s.ir := rfl
@[simp] theorem State.halt_mem (s : State) : (s.halt).mem = s.mem := rfl
@[simp] theorem State.halt_runState (s : State) : (s.halt).runState = .halted := rfl
@[simp] theorem State.halt_fault (s : State) : (s.halt).fault = s.fault := rfl
@[simp] theorem State.halt_trace (s : State) : (s.halt).trace = s.trace := rfl
@[simp] theorem State.halt_input (s : State) : (s.halt).input = s.input := rfl
@[simp] theorem State.halt_activity (s : State) : (s.halt).activity = s.activity := rfl
@[simp] theorem State.halt_params (s : State) : (s.halt).params = s.params := rfl

/-! ## raiseFault -/

@[simp] theorem State.raiseFault_regs (s : State) (c : FaultCause) : (s.raiseFault c).regs = s.regs := rfl
@[simp] theorem State.raiseFault_reg (s : State) (c : FaultCause) (r : Reg) : (s.raiseFault c).reg r = s.reg r := rfl
@[simp] theorem State.raiseFault_pc (s : State) (c : FaultCause) : (s.raiseFault c).pc = s.pc := rfl
@[simp] theorem State.raiseFault_cond (s : State) (c : FaultCause) : (s.raiseFault c).cond = s.cond := rfl
@[simp] theorem State.raiseFault_ir (s : State) (c : FaultCause) : (s.raiseFault c).ir = s.ir := rfl
@[simp] theorem State.raiseFault_mem (s : State) (c : FaultCause) : (s.raiseFault c).mem = s.mem := rfl
@[simp] theorem State.raiseFault_runState (s : State) (c : FaultCause) : (s.raiseFault c).runState = .faulted := rfl
@[simp] theorem State.raiseFault_fault (s : State) (c : FaultCause) : (s.raiseFault c).fault = { cause := c, pc := s.pc - 1#16, word := s.ir } := rfl
@[simp] theorem State.raiseFault_trace (s : State) (c : FaultCause) : (s.raiseFault c).trace = s.trace := rfl
@[simp] theorem State.raiseFault_input (s : State) (c : FaultCause) : (s.raiseFault c).input = s.input := rfl
@[simp] theorem State.raiseFault_activity (s : State) (c : FaultCause) : (s.raiseFault c).activity = s.activity := rfl
@[simp] theorem State.raiseFault_params (s : State) (c : FaultCause) : (s.raiseFault c).params = s.params := rfl

/-! ## setcc -/

@[simp] theorem State.setcc_regs (s : State) (v : Word) : (s.setcc v).regs = s.regs := rfl
@[simp] theorem State.setcc_reg (s : State) (v : Word) (r : Reg) : (s.setcc v).reg r = s.reg r := rfl
@[simp] theorem State.setcc_pc (s : State) (v : Word) : (s.setcc v).pc = s.pc := rfl
@[simp] theorem State.setcc_cond (s : State) (v : Word) : (s.setcc v).cond = (classify v).word := rfl
@[simp] theorem State.setcc_ir (s : State) (v : Word) : (s.setcc v).ir = s.ir := rfl
@[simp] theorem State.setcc_mem (s : State) (v : Word) : (s.setcc v).mem = s.mem := rfl
@[simp] theorem State.setcc_runState (s : State) (v : Word) : (s.setcc v).runState = s.runState := rfl
@[simp] theorem State.setcc_fault (s : State) (v : Word) : (s.setcc v).fault = s.fault := rfl
@[simp] theorem State.setcc_trace (s : State) (v : Word) : (s.setcc v).trace = s.trace := rfl
@[simp] theorem State.setcc_input (s : State) (v : Word) : (s.setcc v).input = s.input := rfl
@[simp] theorem State.setcc_activity (s : State) (v : Word) : (s.setcc v).activity = s.activity := rfl
@[simp] theorem State.setcc_params (s : State) (v : Word) : (s.setcc v).params = s.params := rfl

/-! ## fetch -/

@[simp] theorem State.fetch_regs (s : State) : (s.fetch).regs = s.regs := rfl
@[simp] theorem State.fetch_reg (s : State) (r : Reg) : (s.fetch).reg r = s.reg r := rfl
@[simp] theorem State.fetch_pc (s : State) : (s.fetch).pc = s.pc + 1#16 := rfl
@[simp] theorem State.fetch_cond (s : State) : (s.fetch).cond = s.cond := rfl
@[simp] theorem State.fetch_ir (s : State) : (s.fetch).ir = s.mem.read s.pc := rfl
@[simp] theorem State.fetch_mem (s : State) : (s.fetch).mem = s.mem := rfl
@[simp] theorem State.fetch_runState (s : State) : (s.fetch).runState = s.runState := rfl
@[simp] theorem State.fetch_fault (s : State) : (s.fetch).fault = s.fault := rfl
@[simp] theorem State.fetch_trace (s : State) : (s.fetch).trace = s.trace := rfl
@[simp] theorem State.fetch_input (s : State) : (s.fetch).input = s.input := rfl
@[simp] theorem State.fetch_activity (s : State) : (s.fetch).activity = s.activity := rfl
@[simp] theorem State.fetch_params (s : State) : (s.fetch).params = s.params := rfl

/-! ## writeReg -/

@[simp] theorem State.writeReg_pc (s : State) (i : Reg) (v : Word) : (s.writeReg i v).pc = s.pc := rfl
@[simp] theorem State.writeReg_cond (s : State) (i : Reg) (v : Word) : (s.writeReg i v).cond = s.cond := rfl
@[simp] theorem State.writeReg_ir (s : State) (i : Reg) (v : Word) : (s.writeReg i v).ir = s.ir := rfl
@[simp] theorem State.writeReg_mem (s : State) (i : Reg) (v : Word) : (s.writeReg i v).mem = s.mem := rfl
@[simp] theorem State.writeReg_runState (s : State) (i : Reg) (v : Word) : (s.writeReg i v).runState = s.runState := rfl
@[simp] theorem State.writeReg_fault (s : State) (i : Reg) (v : Word) : (s.writeReg i v).fault = s.fault := rfl
@[simp] theorem State.writeReg_trace (s : State) (i : Reg) (v : Word) : (s.writeReg i v).trace = s.trace := rfl
@[simp] theorem State.writeReg_input (s : State) (i : Reg) (v : Word) : (s.writeReg i v).input = s.input := rfl
@[simp] theorem State.writeReg_activity (s : State) (i : Reg) (v : Word) : (s.writeReg i v).activity = s.activity := rfl
@[simp] theorem State.writeReg_params (s : State) (i : Reg) (v : Word) : (s.writeReg i v).params = s.params := rfl

/-! ## link -/

@[simp] theorem State.link_pc (s : State) : (s.link).pc = s.pc := rfl
@[simp] theorem State.link_cond (s : State) : (s.link).cond = s.cond := rfl
@[simp] theorem State.link_ir (s : State) : (s.link).ir = s.ir := rfl
@[simp] theorem State.link_mem (s : State) : (s.link).mem = s.mem := rfl
@[simp] theorem State.link_runState (s : State) : (s.link).runState = s.runState := rfl
@[simp] theorem State.link_fault (s : State) : (s.link).fault = s.fault := rfl
@[simp] theorem State.link_trace (s : State) : (s.link).trace = s.trace := rfl
@[simp] theorem State.link_input (s : State) : (s.link).input = s.input := rfl
@[simp] theorem State.link_activity (s : State) : (s.link).activity = s.activity := rfl
@[simp] theorem State.link_params (s : State) : (s.link).params = s.params := rfl

/-! ## trapEntry -/

@[simp] theorem State.trapEntry_pc (s : State) : (s.trapEntry).pc = s.pc := rfl
@[simp] theorem State.trapEntry_cond (s : State) : (s.trapEntry).cond = s.cond := rfl
@[simp] theorem State.trapEntry_ir (s : State) : (s.trapEntry).ir = s.ir := rfl
@[simp] theorem State.trapEntry_mem (s : State) : (s.trapEntry).mem = s.mem := rfl
@[simp] theorem State.trapEntry_runState (s : State) : (s.trapEntry).runState = s.runState := rfl
@[simp] theorem State.trapEntry_fault (s : State) : (s.trapEntry).fault = s.fault := rfl
@[simp] theorem State.trapEntry_trace (s : State) : (s.trapEntry).trace = s.trace := rfl
@[simp] theorem State.trapEntry_input (s : State) : (s.trapEntry).input = s.input := rfl
@[simp] theorem State.trapEntry_activity (s : State) : (s.trapEntry).activity = s.activity := rfl
@[simp] theorem State.trapEntry_params (s : State) : (s.trapEntry).params = s.params := rfl

/-! ## writeDest -/

@[simp] theorem State.writeDest_pc (s : State) (i : Reg) (v : Word) : (s.writeDest i v).pc = s.pc := rfl
@[simp] theorem State.writeDest_ir (s : State) (i : Reg) (v : Word) : (s.writeDest i v).ir = s.ir := rfl
@[simp] theorem State.writeDest_mem (s : State) (i : Reg) (v : Word) : (s.writeDest i v).mem = s.mem := rfl
@[simp] theorem State.writeDest_runState (s : State) (i : Reg) (v : Word) : (s.writeDest i v).runState = s.runState := rfl
@[simp] theorem State.writeDest_fault (s : State) (i : Reg) (v : Word) : (s.writeDest i v).fault = s.fault := rfl
@[simp] theorem State.writeDest_trace (s : State) (i : Reg) (v : Word) : (s.writeDest i v).trace = s.trace := rfl
@[simp] theorem State.writeDest_input (s : State) (i : Reg) (v : Word) : (s.writeDest i v).input = s.input := rfl
@[simp] theorem State.writeDest_activity (s : State) (i : Reg) (v : Word) : (s.writeDest i v).activity = s.activity := rfl
@[simp] theorem State.writeDest_params (s : State) (i : Reg) (v : Word) : (s.writeDest i v).params = s.params := rfl

/-! ## Reading a register after a register write -/

/-- `x[i] <- v` changes register `i` alone (00_scope.md R13). -/
@[simp] theorem State.writeReg_reg (s : State) (i : Reg) (v : Word) (r : Reg) :
    (s.writeReg i v).reg r = if r = i then v else s.reg r := by
  simp only [State.reg, State.writeReg, Fin.getElem_fin, Vector.getElem_set, Fin.val_inj, eq_comm]

/-- The link write changes R7 alone (10_state.md R21). -/
@[simp] theorem State.link_reg (s : State) (r : Reg) : s.link.reg r = if r = 7 then s.pc else s.reg r := by
  simp [State.link]

/-- Trap entry changes R7 alone (60_exceptions.md R151). -/
@[simp] theorem State.trapEntry_reg (s : State) (r : Reg) : s.trapEntry.reg r = if r = 7 then s.pc else s.reg r := by
  simp [State.trapEntry]

/-- Writing a destination changes that register alone. -/
@[simp] theorem State.writeDest_reg (s : State) (i : Reg) (v : Word) (r : Reg) :
    (s.writeDest i v).reg r = if r = i then v else s.reg r := by
  simp [State.writeDest]

/-- Writing a destination sets COND from the value written (40_sequencer.md R91). -/
@[simp] theorem State.writeDest_cond (s : State) (i : Reg) (v : Word) :
    (s.writeDest i v).cond = (classify v).word := by
  simp [State.writeDest]

/-! ## The end of a step -/

@[simp] theorem State.retire_regs (s : State) : s.retire.regs = s.regs := by unfold State.retire; split <;> rfl
@[simp] theorem State.retire_reg (s : State) (r : Reg) : s.retire.reg r = s.reg r := by unfold State.retire; split <;> rfl
@[simp] theorem State.retire_pc (s : State) : s.retire.pc = s.pc := by unfold State.retire; split <;> rfl
@[simp] theorem State.retire_cond (s : State) : s.retire.cond = s.cond := by unfold State.retire; split <;> rfl
@[simp] theorem State.retire_mem (s : State) : s.retire.mem = s.mem := by unfold State.retire; split <;> rfl
@[simp] theorem State.retire_runState (s : State) : s.retire.runState = s.runState := by unfold State.retire; split <;> rfl
@[simp] theorem State.retire_fault (s : State) : s.retire.fault = s.fault := by unfold State.retire; split <;> rfl
@[simp] theorem State.retire_trace (s : State) : s.retire.trace = s.trace := by unfold State.retire; split <;> rfl
@[simp] theorem State.retire_input (s : State) : s.retire.input = s.input := by unfold State.retire; split <;> rfl
@[simp] theorem State.retire_activity (s : State) : s.retire.activity = s.activity := by unfold State.retire; split <;> rfl
@[simp] theorem State.retire_params (s : State) : s.retire.params = s.params := by unfold State.retire; split <;> rfl

/-- IR is empty between instructions (10_state.md R37) and is kept while the block is inside a routine. -/
theorem State.retire_ir (s : State) : s.retire.ir = if s.activity = .idle then 0#16 else s.ir := by
  unfold State.retire; split <;> simp_all

/-! ## The start of a run -/

@[simp] theorem State.launched_reg (p : Params) (m : Memory) (r : Reg) : (State.launched p m).reg r = 0#16 := by
  simp [State.reg, State.launched]

end Sys2Proof.Machine
end

