-- ==== Sys2Proof/Laws/Operations.lean ====
section
/-! SUPPORT. What each shared operation of the routines can do, said once: ReadByte, the string loop, and going on inside a routine. -/

namespace Sys2Proof.Machine

/-! ## ReadByte -/

/-- With no byte supplied, the routine waits. -/
theorem State.readByteFor_none {s : State} (r : ReadRoutine) (h : s.input = []) : s.readByteFor r = s.await r := by
  simp [State.readByteFor, h]

/-- With a byte supplied, the routine takes it and completes. -/
theorem State.readByteFor_some {s : State} (r : ReadRoutine) {b : Byte} {rest : List Byte} (h : s.input = b :: rest) :
    s.readByteFor r = (s.takeByte b rest).deliverByte r b := by
  simp [State.readByteFor, h]

/-- The events of completing a ReadByte: the read, and for IN the echo (44_trap.md R131, R134). -/
def readEvents : ReadRoutine → Byte → List IoEvent
  | .getc, b => [.read b]
  | .inEcho, b => [.read b, .write b]

/-- Everything a ReadByte can do: the block waits, or the byte ends up in R0 with the routine over. -/
theorem State.readByteFor_cases (s : State) (r : ReadRoutine) :
    (s.input = [] ∧ s.readByteFor r = s.await r) ∨
    ∃ b rest, s.input = b :: rest ∧
      s.readByteFor r =
        { s with regs := s.regs.set (0 : Reg) (zextByte b), input := rest, trace := s.trace ++ readEvents r b, activity := .idle } := by
  cases h : s.input with
  | nil => exact .inl ⟨rfl, s.readByteFor_none r h⟩
  | cons b rest =>
    refine .inr ⟨b, rest, rfl, ?_⟩
    rw [s.readByteFor_some r h]
    cases r <;> simp [State.deliverByte, State.takeByte, State.writeReg, State.emit, readEvents]

/-! ## The string loop -/

/-- The words a string loop goes through before the terminator, written out in order. -/
def stringText (f : StringFormat) (m : Memory) (a : Word) (k : Nat) : List Byte :=
  (List.range k).flatMap (fun j => stringBytes f (m.read (a + BitVec.ofNat 16 j)))

theorem word_add_succ (a : Word) (j : Nat) : a + BitVec.ofNat 16 (j + 1) = a + 1#16 + BitVec.ofNat 16 j := by
  rw [BitVec.ofNat_add, BitVec.add_comm (BitVec.ofNat 16 j), BitVec.add_assoc]

theorem stringText_succ (f : StringFormat) (m : Memory) (a : Word) (k : Nat) :
    stringText f m a (k + 1) = stringBytes f (m.read a) ++ stringText f m (a + 1#16) k := by
  unfold stringText
  rw [List.range_succ_eq_map, List.flatMap_cons, List.flatMap_map]
  congr 1
  · simp
  · congr 1
    funext j
    exact congrArg (fun w => stringBytes f (m.read w)) (word_add_succ a j)

/-- A loop over `fuel` words with no 0x0000 among them writes them all and stands after them. -/
theorem scanString_endless (f : StringFormat) (m : Memory) (fuel : Nat) (a : Word)
    (h : ∀ j, j < fuel → m.read (a + BitVec.ofNat 16 j) ≠ 0#16) :
    scanString f m fuel a = (stringText f m a fuel, some (a + BitVec.ofNat 16 fuel)) := by
  induction fuel generalizing a with
  | zero => simp [scanString, stringText]
  | succ k ih =>
    have hhead : m.read a ≠ 0#16 := by simpa using h 0 (by omega)
    have htail := ih (a + 1#16) (fun j hj => by rw [← word_add_succ]; exact h (j + 1) (by omega))
    rw [scanString, if_neg hhead, htail, stringText_succ, word_add_succ a k]

/-- A loop that meets 0x0000 after `k` words, with more fuel than that, writes the `k` words and ends. -/
theorem scanString_terminated (f : StringFormat) (m : Memory) (fuel k : Nat) (a : Word) (hk : k < fuel)
    (h : ∀ j, j < k → m.read (a + BitVec.ofNat 16 j) ≠ 0#16) (hend : m.read (a + BitVec.ofNat 16 k) = 0#16) :
    scanString f m fuel a = (stringText f m a k, none) := by
  induction k generalizing a fuel with
  | zero =>
    obtain ⟨n, rfl⟩ : ∃ n, fuel = n + 1 := ⟨fuel - 1, by omega⟩
    have : m.read a = 0#16 := by simpa using hend
    simp [scanString, this, stringText]
  | succ k ih =>
    obtain ⟨n, rfl⟩ : ∃ n, fuel = n + 1 := ⟨fuel - 1, by omega⟩
    have hhead : m.read a ≠ 0#16 := by simpa using h 0 (by omega)
    have htail := ih n (a + 1#16) (by omega) (fun j hj => by rw [← word_add_succ]; exact h (j + 1) (by omega))
      (by rw [← word_add_succ]; exact hend)
    rw [scanString, if_neg hhead, htail, stringText_succ]

@[simp] theorem State.writeString_regs (s : State) (f : StringFormat) (a : Word) : (s.writeString f a).regs = s.regs := rfl
@[simp] theorem State.writeString_pc (s : State) (f : StringFormat) (a : Word) : (s.writeString f a).pc = s.pc := rfl
@[simp] theorem State.writeString_cond (s : State) (f : StringFormat) (a : Word) : (s.writeString f a).cond = s.cond := rfl
@[simp] theorem State.writeString_ir (s : State) (f : StringFormat) (a : Word) : (s.writeString f a).ir = s.ir := rfl
@[simp] theorem State.writeString_mem (s : State) (f : StringFormat) (a : Word) : (s.writeString f a).mem = s.mem := rfl
@[simp] theorem State.writeString_runState (s : State) (f : StringFormat) (a : Word) : (s.writeString f a).runState = s.runState := rfl
@[simp] theorem State.writeString_fault (s : State) (f : StringFormat) (a : Word) : (s.writeString f a).fault = s.fault := rfl
@[simp] theorem State.writeString_input (s : State) (f : StringFormat) (a : Word) : (s.writeString f a).input = s.input := rfl
@[simp] theorem State.writeString_params (s : State) (f : StringFormat) (a : Word) : (s.writeString f a).params = s.params := rfl
@[simp] theorem State.writeString_reg (s : State) (f : StringFormat) (a : Word) (r : Reg) : (s.writeString f a).reg r = s.reg r := rfl

/-- A string with its terminator after `k` words is written out, and the routine is over. -/
theorem State.writeString_terminated (s : State) (f : StringFormat) (a : Word) (k : Nat) (hk : k < 65536)
    (h : ∀ j, j < k → s.mem.read (a + BitVec.ofNat 16 j) ≠ 0#16) (hend : s.mem.read (a + BitVec.ofNat 16 k) = 0#16) :
    s.writeString f a = { s with trace := s.trace ++ (stringText f s.mem a k).map .write, activity := .idle } := by
  simp only [State.writeString, scanString_terminated f s.mem lapWords k a hk h hend, State.writeBytes]

/-- With no 0x0000 word in memory, one lap of memory is written and the block stands where it was inside the routine. -/
theorem State.writeString_endless (s : State) (f : StringFormat) (a : Word) (h : ∀ b, s.mem.read b ≠ 0#16) :
    s.writeString f a =
      { s with trace := s.trace ++ (stringText f s.mem a 65536).map .write, activity := .writingString f a } := by
  have hlap : a + BitVec.ofNat 16 lapWords = a := by simp [lapWords]
  simp only [State.writeString, scanString_endless f s.mem lapWords a (fun j _ => h _), hlap, State.writeBytes]
  rfl

/-- Everything the string loop can do: it adds to the trace and moves the block's place inside the routine. -/
theorem State.writeString_eq (s : State) (f : StringFormat) (a : Word) :
    ∃ (bs : List Byte) (act : Activity), s.writeString f a = { s with trace := s.trace ++ bs.map .write, activity := act } :=
  ⟨_, _, rfl⟩

/-! ## Going on inside a routine -/

/-- Everything a step inside a routine can do: write R0 with a byte, take input, add events, move on in the routine. -/
theorem State.resume_eq (s : State) :
    ∃ regs evs input act, (regs = s.regs ∨ ∃ b : Byte, regs = s.regs.set (0 : Reg) (zextByte b)) ∧ input <:+ s.input ∧
      s.resume = { s with regs := regs, trace := s.trace ++ evs, input := input, activity := act } := by
  unfold State.resume
  split
  · exact ⟨s.regs, [], s.input, s.activity, .inl rfl, List.suffix_refl _, by simp⟩
  · next r _ =>
    rcases s.readByteFor_cases r with ⟨_, h⟩ | ⟨b, rest, hin, h⟩
    · exact ⟨s.regs, [], s.input, .awaitingByte r, .inl rfl, List.suffix_refl _, by rw [h]; simp [State.await]⟩
    · exact ⟨_, readEvents r b, rest, .idle, .inr ⟨b, rfl⟩, by rw [hin]; exact List.suffix_cons _ _, h⟩
  · next f a _ =>
    obtain ⟨bs, act, h⟩ := s.writeString_eq f a
    exact ⟨s.regs, bs.map .write, s.input, act, .inl rfl, List.suffix_refl _, h⟩

/-! ## Routines -/

/-- What a ReadByte leaves alone, whether it is answered or not. -/
theorem State.readByteFor_frame (s : State) (r : ReadRoutine) :
    (s.readByteFor r).pc = s.pc ∧ (s.readByteFor r).cond = s.cond ∧ (s.readByteFor r).ir = s.ir ∧ (s.readByteFor r).mem = s.mem ∧
    (s.readByteFor r).runState = s.runState ∧ (s.readByteFor r).fault = s.fault ∧ (s.readByteFor r).params = s.params ∧
    s.trace <+: (s.readByteFor r).trace ∧ (s.readByteFor r).input <:+ s.input ∧ ∀ q, q ≠ 0 → (s.readByteFor r).reg q = s.reg q := by
  rcases s.readByteFor_cases r with ⟨_, h⟩ | ⟨b, rest, hin, h⟩
  · rw [h]; simp [State.await, State.reg]
  · rw [h, hin]
    refine ⟨rfl, rfl, rfl, rfl, rfl, rfl, rfl, List.prefix_append _ _, List.suffix_cons _ _, fun q hq => ?_⟩
    have hval : q.val ≠ (0 : Reg).val := fun h0 => hq (Fin.ext h0)
    simpa [State.reg] using Vector.getElem_set_ne (xs := s.regs) (x := zextByte b) (0 : Reg).isLt q.isLt hval.symm

/-- What every trap routine leaves alone (44_trap.md R130): it writes R0 only in GETC and IN, and stops the block only in HALT. -/
theorem State.runRoutine_frame (s : State) (r : Routine) :
    (s.runRoutine r).pc = s.pc ∧ (s.runRoutine r).cond = s.cond ∧ (s.runRoutine r).ir = s.ir ∧ (s.runRoutine r).mem = s.mem ∧
    (s.runRoutine r).runState = (if r = .halt then .halted else s.runState) ∧ (s.runRoutine r).fault = s.fault ∧
    (s.runRoutine r).params = s.params ∧ s.trace <+: (s.runRoutine r).trace ∧ (s.runRoutine r).input <:+ s.input ∧
    ∀ q, q ≠ 0 ∨ (r ≠ .getc ∧ r ≠ .inEcho) → (s.runRoutine r).reg q = s.reg q := by
  cases r
  case getc =>
    have h := s.readByteFor_frame .getc
    simp only [State.runRoutine, State.routineGetc]
    simpa using h
  case inEcho =>
    obtain ⟨hpc, hcond, hir, hmem, hrun, hfault, hparams, htrace, hinput, hregs⟩ :=
      (s.writeBytes s.params.inPrompt).readByteFor_frame .inEcho
    exact ⟨hpc, hcond, hir, hmem, hrun, hfault, hparams, List.IsPrefix.trans (List.prefix_append _ _) htrace, hinput,
      fun q hq => hregs q (by simpa using hq)⟩
  case puts => exact ⟨rfl, rfl, rfl, rfl, rfl, rfl, rfl, List.prefix_append _ _, List.suffix_refl _, fun _ _ => rfl⟩
  case putsp => exact ⟨rfl, rfl, rfl, rfl, rfl, rfl, rfl, List.prefix_append _ _, List.suffix_refl _, fun _ _ => rfl⟩
  case out => exact ⟨rfl, rfl, rfl, rfl, rfl, rfl, rfl, List.prefix_append _ _, List.suffix_refl _, fun _ _ => rfl⟩
  case halt => exact ⟨rfl, rfl, rfl, rfl, rfl, rfl, rfl, List.prefix_append _ _, List.suffix_refl _, fun _ _ => rfl⟩

end Sys2Proof.Machine
end

