-- ==== Sys2Proof/Laws/PerInstr.lean ====
section
/-! SUPPORT. Statements about an instruction as syntax, one lemma per constructor. -/

namespace Sys2Proof.Laws.OpcodeField

/-- The opcode of each instruction (30_encoding.md R79). -/
def opcode : Instr → BitVec 4
  | .br _ _ _ _ => 0x0#4
  | .addReg _ _ _ => 0x1#4
  | .addImm _ _ _ => 0x1#4
  | .ld _ _ => 0x2#4
  | .st _ _ => 0x3#4
  | .jsrr _ => 0x4#4
  | .jsr _ => 0x4#4
  | .andReg _ _ _ => 0x5#4
  | .andImm _ _ _ => 0x5#4
  | .ldr _ _ _ => 0x6#4
  | .str _ _ _ => 0x7#4
  | .rti => 0x8#4
  | .not _ _ => 0x9#4
  | .ldi _ _ => 0xA#4
  | .sti _ _ => 0xB#4
  | .jmp _ => 0xC#4
  | .res => 0xD#4
  | .lea _ _ => 0xE#4
  | .trap _ => 0xF#4
  | .ret => 0xC#4
  | .getc => 0xF#4
  | .out => 0xF#4
  | .puts => 0xF#4
  | .inEcho => 0xF#4
  | .putsp => 0xF#4
  | .halt => 0xF#4

/-- The encoding carries the instruction's opcode in bits 15:12. -/
def Statement (i : Instr) : Prop := (encode i).extractLsb' 12 4 = opcode i

/-- A word's opcode is read bit by bit. -/
theorem opcode_of_bits {w : Word} {op : BitVec 4} (h0 : w.getLsbD 12 = op.getLsbD 0) (h1 : w.getLsbD 13 = op.getLsbD 1)
    (h2 : w.getLsbD 14 = op.getLsbD 2) (h3 : w.getLsbD 15 = op.getLsbD 3) : w.extractLsb' 12 4 = op := by
  apply BitVec.eq_of_getLsbD_eq
  intro i hi
  rw [BitVec.getLsbD_extractLsb']
  obtain rfl | rfl | rfl | rfl : i = 0 ∨ i = 1 ∨ i = 2 ∨ i = 3 := by omega
  all_goals simp_all

theorem br (n z p : Bool) (off : BitVec 9) : Statement (.br n z p off) := by
  apply opcode_of_bits <;> simp [encode, opcode, placed]
theorem addReg (dr sr1 sr2 : Reg) : Statement (.addReg dr sr1 sr2) := by
  apply opcode_of_bits <;> simp [encode, opcode, placed]
theorem addImm (dr sr1 : Reg) (imm : BitVec 5) : Statement (.addImm dr sr1 imm) := by
  apply opcode_of_bits <;> simp [encode, opcode, placed]
theorem ld (dr : Reg) (off : BitVec 9) : Statement (.ld dr off) := by
  apply opcode_of_bits <;> simp [encode, opcode, placed]
theorem st (sr : Reg) (off : BitVec 9) : Statement (.st sr off) := by
  apply opcode_of_bits <;> simp [encode, opcode, placed]
theorem jsrr (base : Reg) : Statement (.jsrr base) := by
  apply opcode_of_bits <;> simp [encode, opcode, placed]
theorem jsr (off : BitVec 11) : Statement (.jsr off) := by
  apply opcode_of_bits <;> simp [encode, opcode, placed]
theorem andReg (dr sr1 sr2 : Reg) : Statement (.andReg dr sr1 sr2) := by
  apply opcode_of_bits <;> simp [encode, opcode, placed]
theorem andImm (dr sr1 : Reg) (imm : BitVec 5) : Statement (.andImm dr sr1 imm) := by
  apply opcode_of_bits <;> simp [encode, opcode, placed]
theorem ldr (dr base : Reg) (off : BitVec 6) : Statement (.ldr dr base off) := by
  apply opcode_of_bits <;> simp [encode, opcode, placed]
theorem str (sr base : Reg) (off : BitVec 6) : Statement (.str sr base off) := by
  apply opcode_of_bits <;> simp [encode, opcode, placed]
theorem rti : Statement .rti := by
  apply opcode_of_bits <;> simp [encode, opcode]
theorem not (dr sr : Reg) : Statement (.not dr sr) := by
  apply opcode_of_bits <;> simp [encode, opcode, placed]
theorem ldi (dr : Reg) (off : BitVec 9) : Statement (.ldi dr off) := by
  apply opcode_of_bits <;> simp [encode, opcode, placed]
theorem sti (sr : Reg) (off : BitVec 9) : Statement (.sti sr off) := by
  apply opcode_of_bits <;> simp [encode, opcode, placed]
theorem jmp (base : Reg) : Statement (.jmp base) := by
  apply opcode_of_bits <;> simp [encode, opcode, encodeJmp, placed]
theorem res : Statement .res := by
  apply opcode_of_bits <;> simp [encode, opcode]
theorem lea (dr : Reg) (off : BitVec 9) : Statement (.lea dr off) := by
  apply opcode_of_bits <;> simp [encode, opcode, placed]
theorem trap (vect : BitVec 8) : Statement (.trap vect) := by
  apply opcode_of_bits <;> simp [encode, opcode, encodeTrap, placed]
theorem ret : Statement .ret := by
  apply opcode_of_bits <;> simp [encode, opcode, encodeJmp, placed]
theorem getc : Statement .getc := by
  apply opcode_of_bits <;> simp [encode, opcode, encodeTrap, placed, vectorOfRoutine]
theorem out : Statement .out := by
  apply opcode_of_bits <;> simp [encode, opcode, encodeTrap, placed, vectorOfRoutine]
theorem puts : Statement .puts := by
  apply opcode_of_bits <;> simp [encode, opcode, encodeTrap, placed, vectorOfRoutine]
theorem inEcho : Statement .inEcho := by
  apply opcode_of_bits <;> simp [encode, opcode, encodeTrap, placed, vectorOfRoutine]
theorem putsp : Statement .putsp := by
  apply opcode_of_bits <;> simp [encode, opcode, encodeTrap, placed, vectorOfRoutine]
theorem halt : Statement .halt := by
  apply opcode_of_bits <;> simp [encode, opcode, encodeTrap, placed, vectorOfRoutine]

end Sys2Proof.Laws.OpcodeField
end

