-- ==== Sys2Proof/Laws/Step.lean ====
section
/-! SUPPORT. Everything one step can do, said once, and the equation of a step that fetches. -/

namespace Sys2Proof.Machine

@[simp] theorem onNext_next (f : State → State) (s : State) : onNext f (.next s) = .next (f s) := rfl

/-- The guard fires exactly at PC = 0xFFFF under TOP_GUARD = AT_FFFF (40_sequencer.md R99). -/
theorem State.guardFires_iff (s : State) : s.guardFires = true ↔ s.params.topGuard = .atFFFF ∧ s.pc = 0xFFFF#16 := by
  unfold State.guardFires
  split <;> simp_all

/-- A step that fetches. -/
theorem step_of_fetch {s : State} (hrun : s.runState = .running) (hidle : s.activity = .idle) (hguard : s.guardFires = false) :
    step s = onNext State.retire (exec (decode s.fetch.ir) s.fetch) := by
  simp [step, hrun, hidle, hguard]

/-- Everything a step that gives a next state can be: the guard, an instruction, or more of a routine. -/
theorem step_cases {s t : State} (h : step s = .next t) :
    s.runState = .running ∧
    ((s.activity = .idle ∧ s.guardFires = true ∧ t = s.halt) ∨
     (s.activity = .idle ∧ s.guardFires = false ∧ ∃ u, exec (decode s.fetch.ir) s.fetch = .next u ∧ t = u.retire) ∨
     (s.activity ≠ .idle ∧ t = s.resume.retire)) := by
  unfold step at h
  split at h
  · cases h
  · cases h
  · next hrun =>
    refine ⟨hrun, ?_⟩
    split at h
    · next hidle =>
      by_cases hg : s.guardFires = true
      · rw [if_pos hg] at h; cases h
        exact .inl ⟨hidle, hg, rfl⟩
      · rw [if_neg hg] at h
        refine .inr (.inl ⟨hidle, by simpa using hg, ?_⟩)
        cases hx : exec (decode s.fetch.ir) s.fetch with
        | next u => rw [hx] at h; cases h; exact ⟨u, rfl, rfl⟩
        | fault r => rw [hx] at h; cases h
        | refused r => rw [hx] at h; cases h
    · next r hact => cases h; exact .inr (.inr ⟨by simp [hact], rfl⟩)
    · next f a hact => cases h; exact .inr (.inr ⟨by simp [hact], rfl⟩)

end Sys2Proof.Machine
end

