-- ==== Sys2Proof/Tests/Slice0.lean ====
section
/-! SUPPORT. Tests on small states, each expected result taken from the spec (spec/95_test_vectors.md, by row, or the example of the
rule named), the smoke tests of WellFormed, and a witness for each statement that has hypotheses. -/

namespace Sys2Proof.Tests

open Sys2Proof.Machine Sys2Proof.Claims

/-! ## Helpers -/

/-- The reset state with a word at an address, PC there, and some registers and memory words set. -/
def start (pc w : Word) (rs : List (Reg × Word)) (ms : List (Word × Word)) : State :=
  let s := { State.reset with pc := pc, mem := State.reset.mem.write pc w }
  let s := rs.foldl (fun s r => s.writeReg r.1 r.2) s
  ms.foldl (fun s m => s.storeWord m.1 m.2) s

/-- The next state of an outcome. -/
def after : Host.Outcome State Fault Refusal → Option State
  | .next s => some s
  | .fault _ => none
  | .refused _ => none

/-- A view of the state after one step. -/
def oneStep {α : Type} (s : State) (view : State → α) : Option α := (after (step s)).map view

/-! ## Well-formedness: an ill-formed term for each check -/

theorem test_wellFormed_refuses_jmp_r7 : (Instr.jmp 7).wellFormed = false := by decide
theorem test_wellFormed_refuses_trap_of_routine : (Instr.trap 0x20#8).wellFormed = false ∧ (Instr.trap 0x25#8).wellFormed = false := by
  decide
theorem test_wellFormed_accepts : (Instr.jmp 6).wellFormed = true ∧ (Instr.trap 0x1F#8).wellFormed = true ∧
    (Instr.trap 0x26#8).wellFormed = true := by decide

/-! ## Decoding: a word for each constructor, written out from 30_encoding.md R64 to R74 and R79, R80 -/

-- 0000 n=0 z=0 p=1 000000101
theorem test_decode_br : decode 0b0000001000000101#16 = .br false false true 5#9 := by decide
-- 0001 DR=001 SR1=010 0 00 SR2=011
theorem test_decode_addReg : decode 0b0001001010000011#16 = .addReg 1 2 3 := by decide
-- 0001 DR=010 SR1=011 1 11111
theorem test_decode_addImm : decode 0b0001010011111111#16 = .addImm 2 3 0x1F#5 := by decide
-- 0010 DR=000 000000111
theorem test_decode_ld : decode 0b0010000000000111#16 = .ld 0 7#9 := by decide
-- 0011 SR=011 111111110
theorem test_decode_st : decode 0b0011011111111110#16 = .st 3 0x1FE#9 := by decide
-- 0100 0 00 BaseR=011 000000
theorem test_decode_jsrr : decode 0b0100000011000000#16 = .jsrr 3 := by decide
-- 0100 1 00000000011
theorem test_decode_jsr : decode 0b0100100000000011#16 = .jsr 3#11 := by decide
-- 0101 DR=100 SR1=101 0 00 SR2=110
theorem test_decode_andReg : decode 0b0101100101000110#16 = .andReg 4 5 6 := by decide
-- 0101 DR=000 SR1=001 1 01111
theorem test_decode_andImm : decode 0b0101000001101111#16 = .andImm 0 1 15#5 := by decide
-- 0110 DR=010 BaseR=001 000001
theorem test_decode_ldr : decode 0b0110010001000001#16 = .ldr 2 1 1#6 := by decide
-- 0111 SR=101 BaseR=110 011111
theorem test_decode_str : decode 0b0111101110011111#16 = .str 5 6 31#6 := by decide
-- 1000 and any low bits
theorem test_decode_rti : decode 0b1000000000000000#16 = .rti ∧ decode 0b1000111111111111#16 = .rti := by decide
-- 1001 DR=001 SR=010, bits 5:0 ignored
theorem test_decode_not : decode 0b1001001010111111#16 = .not 1 2 ∧ decode 0b1001001010000000#16 = .not 1 2 := by decide
-- 1010 DR=100 000000101
theorem test_decode_ldi : decode 0b1010100000000101#16 = .ldi 4 5#9 := by decide
-- 1011 SR=000 000000100
theorem test_decode_sti : decode 0b1011000000000100#16 = .sti 0 4#9 := by decide
-- 1100 ... BaseR=010 ......, with the ignored bits 0 and 1 (95 CT-1, CT-4)
theorem test_decode_jmp : decode 0b1100000010000000#16 = .jmp 2 ∧ decode 0b1100111010111111#16 = .jmp 2 := by decide
-- 1101 and any low bits
theorem test_decode_res : decode 0b1101000000000000#16 = .res ∧ decode 0b1101111111111111#16 = .res := by decide
-- 1110 DR=001 000000110
theorem test_decode_lea : decode 0b1110001000000110#16 = .lea 1 6#9 := by decide
-- 1111 .... 00100110, a vector past the six, and vector 0
theorem test_decode_trap : decode 0b1111000000100110#16 = .trap 0x26#8 ∧ decode 0b1111000000000000#16 = .trap 0#8 := by decide
-- 1100 000 111 000000
theorem test_decode_ret : decode 0b1100000111000000#16 = .ret := by decide
theorem test_decode_getc : decode 0b1111000000100000#16 = .getc := by decide
theorem test_decode_out : decode 0b1111000000100001#16 = .out := by decide
theorem test_decode_puts : decode 0b1111000000100010#16 = .puts := by decide
theorem test_decode_in : decode 0b1111000000100011#16 = .inEcho := by decide
theorem test_decode_putsp : decode 0b1111000000100100#16 = .putsp := by decide
-- bits 11:8 are ignored (95 TR-12, TR-13)
theorem test_decode_halt : decode 0b1111000000100101#16 = .halt ∧ decode 0b1111111100100101#16 = .halt := by decide
theorem test_decodeTableWord : decodeTableWord 16 0x1283 = some (.addReg 1 2 3) ∧ decodeTableWord 8 0x100 = none := by decide

/-! ## One step of each instruction -/

-- 95 OP-1, OP-6
theorem test_add_reg_overflows :
    oneStep (start 0x3000#16 0x1283#16 [(2, 0x7FFF#16), (3, 1#16)] []) (fun t => (t.reg 1, t.cond, t.pc)) =
      some (0x8000#16, 4#16, 0x3001#16) := by decide
theorem test_add_reg_all_one_register :
    oneStep (start 0x3000#16 0x1000#16 [(0, 0x4000#16)] []) (fun t => (t.reg 0, t.cond)) = some (0x8000#16, 4#16) := by decide
-- 95 L1-2, OP-4
theorem test_add_imm_source_example :
    oneStep (start 0x3000#16 0x14FF#16 [] []) (fun t => (t.reg 2, t.cond)) = some (0xFFFF#16, 4#16) := by decide
theorem test_add_imm_most_negative :
    oneStep (start 0x3000#16 0x1270#16 [(1, 0x10#16)] []) (fun t => (t.reg 1, t.cond)) = some (0#16, 2#16) := by decide
-- 95 OP-11
theorem test_and_reg :
    oneStep (start 0x3000#16 0x5946#16 [(5, 0xFF00#16), (6, 0x8F0F#16)] []) (fun t => (t.reg 4, t.cond)) =
      some (0x8F00#16, 4#16) := by decide
-- 95 L1-4, OP-10
theorem test_and_imm_clears :
    oneStep (start 0x3000#16 0x5020#16 [(0, 0xBEEF#16)] []) (fun t => (t.reg 0, t.cond)) = some (0#16, 2#16) := by decide
theorem test_and_imm_low_bits :
    oneStep (start 0x3000#16 0x506F#16 [(1, 0x1234#16)] []) (fun t => (t.reg 0, t.cond)) = some (4#16, 1#16) := by decide
-- 95 OP-14, OP-16
theorem test_not :
    oneStep (start 0x3000#16 0x92BF#16 [(2, 0x8000#16)] []) (fun t => (t.reg 1, t.cond)) = some (0x7FFF#16, 1#16) := by decide
theorem test_not_same_register :
    oneStep (start 0x3000#16 0x96FF#16 [(3, 0x00FF#16)] []) (fun t => (t.reg 3, t.cond)) = some (0xFF00#16, 4#16) := by decide
-- 95 L2-3 (COND = ZERO at reset), BR-4
theorem test_br_z_on_reset_flag : oneStep (start 0x3000#16 0x0405#16 [] []) (·.pc) = some 0x3006#16 ∧
    oneStep (start 0x3000#16 0x0A05#16 [] []) (·.pc) = some 0x3001#16 := by decide
theorem test_br_wraps_below_zero : oneStep (start 0x0000#16 0x0FFE#16 [] []) (·.pc) = some 0xFFFF#16 := by decide
-- 95 CT-1
theorem test_jmp : oneStep (start 0x3000#16 0xC080#16 [(2, 0x1234#16)] []) (fun t => (t.pc, t.reg 7)) = some (0x1234#16, 0#16) := by
  decide
-- 95 CT-2
theorem test_ret : oneStep (start 0x3000#16 0xC1C0#16 [(7, 0x3005#16)] []) (·.pc) = some 0x3005#16 := by decide
-- 95 CT-5, CT-6
theorem test_jsr : oneStep (start 0x3002#16 0x4803#16 [] []) (fun t => (t.reg 7, t.pc)) = some (0x3003#16, 0x3006#16) := by decide
theorem test_jsr_most_negative :
    oneStep (start 0x3000#16 0x4C00#16 [] []) (fun t => (t.reg 7, t.pc)) = some (0x3001#16, 0x2C01#16) := by decide
-- 95 CT-9, CT-10
theorem test_jsrr :
    oneStep (start 0x3000#16 0x4080#16 [(2, 0x5000#16)] []) (fun t => (t.reg 7, t.pc)) = some (0x3001#16, 0x5000#16) := by decide
theorem test_jsrr_r7_reads_link :
    oneStep (start 0x3000#16 0x41C0#16 [(7, 0x5000#16)] []) (fun t => (t.reg 7, t.pc)) = some (0x3001#16, 0x3001#16) := by decide
-- 95 LS-3
theorem test_ld_wraps :
    oneStep (start 0x0000#16 0x21FE#16 [] [(0xFFFF#16, 0x1111#16)]) (fun t => (t.reg 0, t.cond)) = some (0x1111#16, 1#16) := by decide
-- R121's pseudocode at the address of its corner case (notes/assumptions/21.md)
theorem test_ld_wraps_from_post_increment_pc :
    oneStep (start 0xFFF0#16 0x20FF#16 [] [(0x00F0#16, 0x2222#16)]) (·.reg 0) = some 0x2222#16 := by decide
-- 95 LS-5
theorem test_ldi :
    oneStep (start 0x3000#16 0xA805#16 [] [(0x3006#16, 0x4000#16), (0x4000#16, 0x7FFF#16)]) (fun t => (t.reg 4, t.cond)) =
      some (0x7FFF#16, 1#16) := by decide
-- 95 LS-7
theorem test_ldr_most_negative_offset :
    oneStep (start 0x3000#16 0x61A0#16 [(6, 0x10#16)] [(0xFFF0#16, 0xABCD#16)]) (fun t => (t.reg 0, t.cond)) =
      some (0xABCD#16, 4#16) := by decide
-- 95 LS-9, LS-10
theorem test_lea_sets_neg : oneStep (start 0x7FF0#16 0xE00F#16 [] []) (fun t => (t.reg 0, t.cond)) = some (0x8000#16, 4#16) := by decide
theorem test_lea_sets_zero :
    oneStep (start 0x0000#16 0xE1FF#16 [(0, 0x4444#16)] []) (fun t => (t.reg 0, t.cond)) = some (0#16, 2#16) := by decide
-- 95 LS-11, LS-15
theorem test_st : oneStep (start 0x3000#16 0x37FE#16 [(3, 0xBEEF#16)] []) (fun t => (t.mem.read 0x2FFF#16, t.cond)) =
    some (0xBEEF#16, 2#16) := by decide
theorem test_st_over_itself : oneStep (start 0x3000#16 0x31FF#16 [(0, 0xF025#16)] [])
    (fun t => (t.mem.read 0x3000#16, t.pc, t.runState)) = some (0xF025#16, 0x3001#16, .running) := by decide
-- 95 LS-12
theorem test_sti : oneStep (start 0x3000#16 0xB004#16 [(0, 0x55#16)] [(0x3005#16, 0x4000#16)])
    (fun t => (t.mem.read 0x4000#16, t.mem.read 0x3005#16)) = some (0x55#16, 0x4000#16) := by decide
-- 95 LS-14
theorem test_str_wraps : oneStep (start 0x3000#16 0x7B9F#16 [(5, 0x7777#16), (6, 0xFFF0#16)] []) (·.mem.read 0x000F#16) =
    some 0x7777#16 := by decide
-- 95 TR-1, TR-17
theorem test_getc : oneStep { start 0x3000#16 0xF020#16 [(0, 0xABCD#16)] [] with input := [0x61#8], cond := 4#16 }
    (fun t => (t.reg 0, t.reg 7, t.cond, t.trace)) = some (0x61#16, 0x3001#16, 4#16, [.read 0x61#8]) := by decide
theorem test_getc_waits : oneStep (start 0x3000#16 0xF020#16 [] []) (fun t => (t.activity, t.runState, t.trace)) =
    some (.awaitingByte .getc, .running, []) := by decide
-- 95 TR-3
theorem test_out : oneStep (start 0x3000#16 0xF021#16 [(0, 0x0A0D#16)] []) (fun t => (t.trace, t.reg 7)) =
    some ([.write 0x0D#8], 0x3001#16) := by decide
-- 95 TR-6, TR-7
theorem test_puts_writes_low_byte_zero : oneStep
    (start 0x3000#16 0xF022#16 [(0, 0x4000#16)] [(0x4000#16, 0x0100#16), (0x4001#16, 0x0041#16)]) (fun t => (t.trace, t.activity)) =
      some ([.write 0#8, .write 0x41#8], .idle) := by decide
theorem test_puts_wraps : oneStep
    (start 0x3000#16 0xF022#16 [(0, 0xFFFF#16)] [(0xFFFF#16, 0x0041#16), (0x0000#16, 0x0042#16)]) (·.trace) =
      some [.write 0x41#8, .write 0x42#8] := by decide
-- 95 TR-8, TR-9
theorem test_in : oneStep { start 0x3000#16 0xF023#16 [] [] with input := [0x37#8] } (fun t => (t.reg 0, t.trace)) =
    some (0x37#16, [.read 0x37#8, .write 0x37#8]) := by decide
theorem test_in_prompt : oneStep { start 0x3000#16 0xF023#16 [] [] with
      input := [0x37#8], params := { Params.default with inPrompt := [0x3E#8, 0x20#8] } } (·.trace) =
    some [.write 0x3E#8, .write 0x20#8, .read 0x37#8, .write 0x37#8] := by decide
-- 95 TR-10, TR-11
theorem test_putsp : oneStep (start 0x3000#16 0xF024#16 [(0, 0x4010#16)] [(0x4010#16, 0x6948#16), (0x4011#16, 0x0021#16)])
    (·.trace) = some [.write 0x48#8, .write 0x69#8, .write 0x21#8] := by decide
theorem test_putsp_low_byte_always : oneStep (start 0x3000#16 0xF024#16 [(0, 0x4010#16)] [(0x4010#16, 0x4100#16)]) (·.trace) =
    some [.write 0#8, .write 0x41#8] := by decide
-- 95 TR-12
theorem test_halt : oneStep (start 0x3000#16 0xF025#16 [] []) (fun t => (t.reg 7, t.pc, t.trace, t.runState)) =
    some (0x3001#16, 0x3001#16, [.flush], .halted) := by decide
-- 95 TR-14
theorem test_unknown_vector : oneStep (start 0x3000#16 0xF026#16 [] []) (fun t => (t.reg 7, t.status)) =
    some (0x3001#16, .faulted, some { cause := .trapUnknown, pc := 0x3000#16, word := 0xF026#16 }) := by decide
-- 95 RS-2
theorem test_res : oneStep (start 0x3000#16 0xDFFF#16 [] []) (·.status) =
    some (.faulted, some { cause := .res, pc := 0x3000#16, word := 0xDFFF#16 }) := by decide
-- 45_reserved.md R142, the example
theorem test_rti : oneStep (start 0x3002#16 0x8000#16 [] []) (fun t => (t.status, t.pc)) =
    some ((.faulted, some { cause := .rti, pc := 0x3002#16, word := 0x8000#16 }), 0x3003#16) := by decide

/-! ## The sequencer, reset and launch -/

-- 95 SQ-1, SQ-2
theorem test_guard_halts : oneStep (start 0xFFFF#16 0x1021#16 [] []) (fun t => (t.runState, t.pc, t.reg 0)) =
    some (.halted, 0xFFFF#16, 0#16) := by decide
theorem test_guard_off_wraps : oneStep { start 0xFFFF#16 0x1021#16 [] [] with params := { Params.default with topGuard := .off } }
    (fun t => (t.runState, t.pc, t.reg 0, t.cond)) = some (.running, 0#16, 1#16, 1#16) := by decide
-- 95 SQ-6 and 20_memory.md R49
theorem test_image_past_top : loadImage (some [0xFF#8, 0xFF#8, 0x10#8, 0x21#8, 0x10#8, 0x21#8]) = .error .pastTop := by rfl
-- 95 L1-11
theorem test_launch_and_step : (match launch Params.default (some [0x30#8, 0x00#8, 0x14#8, 0xFF#8]) with
    | .ok s => oneStep s (fun t => (t.reg 2, t.cond, t.pc))
    | .error _ => none) = some (0xFFFF#16, 4#16, 0x3001#16) := by decide
-- 95 L1-1
theorem test_sext : sext 5 0x1F#16 = 0xFFFF#16 ∧ sext 5 0xFFEF#16 = 0x000F#16 ∧ sext 11 0x400#16 = 0xFC00#16 ∧
    sext 16 0x8000#16 = 0x8000#16 ∧ sext 1 1#16 = 0xFFFF#16 := by decide

/-! ## Witnesses: for each statement with hypotheses, a state and operands that meet them all -/

theorem witness_DecodeOfEncode : (Instr.jmp 6).wellFormed = true ∧ (Instr.trap 0xFF#8).wellFormed = true := by decide
theorem witness_SignExtensionBroadcasts : 1 ≤ 5 ∧ 5 ≤ 16 ∧ 4 < 16 ∧ 15 < 16 := by decide
theorem witness_AddRegisterForm : 0x1098#16 &&& 0xF020#16 = 0x1000#16 := by decide
theorem witness_AddImmediateForm : 0x14FF#16 &&& 0xF020#16 = 0x1020#16 := by decide
theorem witness_AndRegisterForm : 0x5946#16 &&& 0xF020#16 = 0x5000#16 := by decide
theorem witness_AndImmediateForm : 0x506F#16 &&& 0xF020#16 = 0x5020#16 := by decide
theorem witness_NotComplements : 0x9280#16 &&& 0xF000#16 = 0x9000#16 := by decide
theorem witness_BranchTestsConditionBits : 0x0205#16 &&& 0xF000#16 = 0x0000#16 := by decide
theorem witness_JumpThroughRegister : 0xC1C0#16 &&& 0xF000#16 = 0xC000#16 ∧ 0xCEBF#16 &&& 0xF000#16 = 0xC000#16 := by decide
theorem witness_JsrLinksAndBranches : 0x4FFF#16 &&& 0xF800#16 = 0x4800#16 := by decide
theorem witness_JsrrReadsBaseAfterLink : 0x4695#16 &&& 0xF800#16 = 0x4000#16 := by decide
theorem witness_LdLoadsPcRelative : 0x2100#16 &&& 0xF000#16 = 0x2000#16 := by decide
theorem witness_LdiLoadsThroughPointer : 0xA805#16 &&& 0xF000#16 = 0xA000#16 := by decide
theorem witness_LdrLoadsBasePlusOffset : 0x61A0#16 &&& 0xF000#16 = 0x6000#16 := by decide
theorem witness_LeaLoadsAddressAndFlags : 0xE1FF#16 &&& 0xF000#16 = 0xE000#16 := by decide
theorem witness_StStoresPcRelative : 0x31FF#16 &&& 0xF000#16 = 0x3000#16 := by decide
theorem witness_StiStoresThroughPointer : 0xB004#16 &&& 0xF000#16 = 0xB000#16 := by decide
theorem witness_StrStoresBasePlusOffset : 0x7B9F#16 &&& 0xF000#16 = 0x7000#16 := by decide

/-- ST R1,#2 at 0x3000 and then LD R2,#1 at 0x3001 meet at 0x3003 (95 L1-9). -/
theorem witness_LoadReturnsWhatStoreWrote : ∃ s t u : State, storeOf s (.st 1 2#9) = some (0x3003#16, 1) ∧
    exec (.st 1 2#9) s = .next t ∧ u.mem = t.mem ∧ loadOf u (.ld 2 1#9) = some (0x3003#16, 2) :=
  ⟨(start 0x3000#16 0x3202#16 [(1, 0x8421#16)] []).fetch, _, { (start 0x3000#16 0x3202#16 [(1, 0x8421#16)] []).fetch.storeWord
    0x3003#16 0x8421#16 with pc := 0x3002#16 }, by decide, rfl, rfl, by decide⟩

theorem witness_TrapSelectsRoutine : 0xFF25#16 &&& 0xF000#16 = 0xF000#16 ∧ UnknownVector 0x26#8 := by
  unfold UnknownVector; decide
theorem witness_UnknownVectorFaults : 0xF01F#16 &&& 0xF000#16 = 0xF000#16 ∧ UnknownVector ((0xF01F#16).extractLsb' 0 8) ∧
    UnknownVector 0x26#8 := by
  unfold UnknownVector; decide
theorem witness_GetcReadsOneByte : 0xF020#16 &&& 0xF0FF#16 = 0xF020#16 ∧
    ({ State.reset with input := [0x61#8] } : State).input = 0x61#8 :: [] := by decide
theorem witness_OutWritesLowByte : 0xFF21#16 &&& 0xF0FF#16 = 0xF021#16 := by decide
theorem witness_PutsWritesString : 0xF022#16 &&& 0xF0FF#16 = 0xF022#16 ∧
    StringAt (start 0x3000#16 0xF022#16 [(0, 0x4000#16)] [(0x4000#16, 0x48#16), (0x4001#16, 0x69#16)]).mem 0x4000#16 2 ∧
    StringAt State.reset.mem 0x4000#16 0 := by
  unfold StringAt; decide
theorem witness_InPromptsReadsAndEchoes : 0xF023#16 &&& 0xF0FF#16 = 0xF023#16 ∧
    ({ State.reset with input := [0x37#8] } : State).input = 0x37#8 :: [] := by decide
theorem witness_PutspWritesPackedString : 0xF024#16 &&& 0xF0FF#16 = 0xF024#16 ∧
    StringAt (start 0x3000#16 0xF024#16 [(0, 0x4010#16)] [(0x4010#16, 0x6948#16), (0x4011#16, 0x21#16)]).mem 0x4010#16 2 := by
  unfold StringAt; decide
theorem witness_HaltFlushesAndStops : 0xF025#16 &&& 0xF0FF#16 = 0xF025#16 := by decide
theorem witness_ReadWaitsForHost : State.reset.input = [] ∧
    (let s := State.reset.await .getc
     s.runState = .running ∧ s.activity = .awaitingByte .getc ∧ s.input = [] ∧ (s.supply 0x61#8).input = 0x61#8 :: []) := by
  decide

/-- A memory in which the first words, as many as given, are 0x0001. -/
def onesMemory (n : Nat) : Memory := { cells := (List.range' 0 n).map (fun a => (a, 1#16)) }

theorem lookup_full (a : Nat) : ∀ k b : Nat, b ≤ a → a < b + k →
    lookupCell ((List.range' b k).map (fun a => (a, 1#16))) a = 1#16
  | 0, b, hb, hk => by omega
  | k + 1, b, hb, hk => by
    rw [List.range'_succ, List.map_cons, lookupCell]
    split
    · rfl
    · exact lookup_full a k (b + 1) (by omega) (by omega)

theorem ones_read (n : Nat) (a : Word) (h : a.toNat < n) : (onesMemory n).read a = 1#16 :=
  lookup_full a.toNat n 0 (by omega) (by omega)

theorem witness_EndlessStringNeverReturns : ∃ s : State, (∀ a, s.mem.read a ≠ 0x0000#16) ∧ s.runState = .running ∧
    s.activity = .writingString .puts 0x4000#16 := by
  obtain ⟨n, hn⟩ : ∃ n, n = 65536 := ⟨_, rfl⟩
  refine ⟨{ State.reset with mem := onesMemory n, activity := .writingString .puts 0x4000#16 }, fun a => ?_, rfl, rfl⟩
  change (onesMemory n).read a ≠ 0x0000#16
  rw [ones_read n a (by omega)]
  decide

theorem witness_ResFaults : 0xDFFF#16 &&& 0xF000#16 = 0xD000#16 := by decide
theorem witness_RtiFaults : 0x8FFF#16 &&& 0xF000#16 = 0x8000#16 := by decide
/-- A RES word, an RTI word, an unknown trap vector and an ADD word, each about to be fetched. -/
theorem witness_FaultExactlyOnFatalWords : Fetches (start 0x3000#16 0xD000#16 [] []) ∧ Fetches (start 0x3000#16 0x8000#16 [] []) ∧
    Fetches (start 0x3000#16 0xF026#16 [] []) ∧ Fetches (start 0x3000#16 0x1021#16 [] []) := by
  unfold Fetches; decide
theorem witness_RegIndexNeverRaised : ∃ s t : State, step s = .next t ∧ t.fault.cause = .regIndex :=
  ⟨{ start 0x3000#16 0x1021#16 [] [] with fault := { cause := .regIndex, pc := 0#16, word := 0#16 } }, _, rfl, by decide⟩
theorem witness_FaultedShowsRecordAndTraceOnly : ∃ s t : State, s.runState = .faulted ∧ t.runState = .faulted ∧ s.fault = t.fault ∧
    s.trace = t.trace ∧ s ≠ t :=
  ⟨State.reset.raiseFault .res, (State.reset.raiseFault .res).writeReg 1 5#16, by decide, by decide, by decide, by decide, by decide⟩
theorem witness_StepRunsDecodedInstruction : Fetches State.reset ∧ Fetches { State.reset with pc := 0xFFFE#16 } := by
  unfold Fetches; decide
theorem witness_TopGuardHaltsBeforeFetch :
    (let s := { State.reset with pc := 0xFFFF#16 }
     s.runState = .running ∧ s.activity = .idle ∧ s.pc = 0xFFFF#16 ∧ s.params.topGuard = .atFFFF ∧
     ({ s with params := { Params.default with topGuard := .off } } : State).params.topGuard = .off) := by decide
theorem witness_StoppedBlockHasNoStep : State.reset.halt.runState = .halted ∧ (State.reset.raiseFault .rti).runState = .faulted := by
  decide
theorem witness_RunningBlockAlwaysSteps : State.reset.runState = .running := by decide
theorem witness_OnlySevenInstructionsWriteCond : (∃ t, exec (.st 0 0#9) State.reset = .next t) ∧ setsFlags (.st 0 0#9) = false ∧
    (∃ t, exec (.lea 0 0#9) State.reset = .next t) ∧ setsFlags (.lea 0 0#9) = true ∧
    ∃ t, step (State.reset.await .getc) = .next t ∧ (State.reset.await .getc).activity ≠ .idle :=
  ⟨⟨_, rfl⟩, rfl, ⟨_, rfl⟩, rfl, ⟨_, rfl, by decide⟩⟩
theorem witness_OnlyBranchReadsCond : (∀ n z p off, Instr.out ≠ .br n z p off) ∧ (∃ t, exec .out State.reset = .next t) ∧
    ∃ t, step (State.reset.await .getc) = .next t ∧ (State.reset.await .getc).activity ≠ .idle :=
  ⟨by simp, ⟨_, rfl⟩, ⟨_, rfl, by decide⟩⟩
theorem witness_OnlyListedRegistersWritten : (∃ t, exec (.jsr 0#11) State.reset = .next t) ∧
    ∃ t, step ((State.reset.await .inEcho).supply 0x37#8) = .next t ∧ ((State.reset.await .inEcho).supply 0x37#8).activity ≠ .idle :=
  ⟨⟨_, rfl⟩, ⟨_, rfl, by decide⟩⟩
theorem witness_OnlyControlTransfersWritePc : (∃ t, exec .out State.reset = .next t) ∧ writesPc .out = false ∧
    ∃ t, step (State.reset.await .getc) = .next t ∧ (State.reset.await .getc).activity ≠ .idle :=
  ⟨⟨_, rfl⟩, rfl, ⟨_, rfl, by decide⟩⟩
theorem witness_OnlyStoresChangeMemory : (∃ t, exec .out State.reset = .next t) ∧ storeOf State.reset .out = none ∧
    (∃ t, exec (.str 1 2 3#6) State.reset = .next t) ∧ storeOf State.reset (.str 1 2 3#6) = some (3#16, 1) ∧
    ∃ t, step (State.reset.await .getc) = .next t ∧ (State.reset.await .getc).activity ≠ .idle :=
  ⟨⟨_, rfl⟩, rfl, ⟨_, rfl⟩, by decide, ⟨_, rfl, by decide⟩⟩
theorem witness_StepExtendsTraceAndConsumesInput : ∃ t, step State.reset = .next t := ⟨_, rfl⟩
/-- ST R0,#0 at 0x3000 stores over the next instruction, which is then fetched. -/
theorem witness_FetchSeesEarlierStore : Fetches (start 0x3000#16 0x3000#16 [(0, 0xF025#16)] []) ∧
    decode ((start 0x3000#16 0x3000#16 [(0, 0xF025#16)] []).mem.read 0x3000#16) = .st 0 0#9 ∧
    storeOf (start 0x3000#16 0x3000#16 [(0, 0xF025#16)] []).fetch (.st 0 0#9) = some (0x3001#16, 0) ∧
    ∃ t, step (start 0x3000#16 0x3000#16 [(0, 0xF025#16)] []) = .next t ∧ Fetches t :=
  ⟨by unfold Fetches; decide, by decide, by decide, _, rfl, by unfold Fetches; decide⟩
theorem witness_ResetState : ∃ (p : Params) (m : Memory) (s u : State), s = State.launched p m ∧ s = u.controlReset p.startPc ∧
    u.mem = m ∧ p = { u.params with startPc := p.startPc } :=
  ⟨Params.default, { cells := [] }, State.reset, State.reset.halt, rfl, rfl, rfl, rfl⟩
theorem witness_LaunchMemoryHoldsImage : (0xFFFF#16).toNat + [0x1021#16].length ≤ 65536 ∧
    (0x3000#16).toNat + ([] : List Word).length ≤ 65536 := by decide
theorem witness_ImageReadBigEndianOrRefused : [0x30#8].length % 2 = 1 ∧ 65536 < (0xFFFF#16).toNat + [0x1021#16, 0x1021#16].length := by
  decide
theorem reset_inv : State.reset.mem.wf ∧ State.reset.cond = 0x0002#16 ∧ State.reset.runState = .running ∧
    State.reset.fault.cause = .none ∧ State.reset.ir = 0#16 ∧ State.reset.activity = .idle := by decide
theorem witness_StepKeepsInv : ∃ s t : State, s.Inv ∧ step s = .next t :=
  ⟨State.launched Params.default { cells := [(0x3000, 0x1021#16)] }, _,
    ⟨by decide, by decide, by decide, by decide, by decide, by decide⟩, rfl⟩
theorem witness_ReachableStatesMeetInv : ∃ s, Memory.wf { cells := [(0x3000, 0x1021#16)] } ∧
    Reachable Params.default { cells := [(0x3000, 0x1021#16)] } s ∧ s.reg 0 = 1#16 :=
  ⟨_, by decide, .step (.launch) rfl, by decide⟩
theorem witness_PlacedWordRunsNext : decodeTableWord 16 0xF025 = some .halt ∧ decodeTableWord 16 0 = some (.br false false false 0#9) := by
  decide

end Sys2Proof.Tests
end

section
/-! PROOFS. Bit by bit, what the sign-extension unit answers (spec/00_scope.md R10). -/

namespace Sys2Proof.Machine

/-- A sign-extended field has its own bits below its width and its sign above (00_scope.md R10). -/
theorem getLsbD_sextField {n i : Nat} (f : BitVec n) (hi : i < 16) :
    (sextField f).getLsbD i = if i < n then f.getLsbD i else f.msb := by
  simp only [sextField, BitVec.getLsbD_signExtend, hi, decide_true, Bool.true_and]

/-- Settles O5: an index below N reads the field that `sext_N` kept, one from N on reads that field's sign, which is
bit N-1 of the word. -/
theorem signExtensionBroadcasts : Obligations.SignExtensionBroadcasts := by
  intro n v hn _ i hi
  have hpos : 0 < n := hn
  have hsign : (v.setWidth n).msb = v.getLsbD (n - 1) := by simp [BitVec.msb_setWidth, hpos]
  rw [sext, getLsbD_sextField _ hi, hsign]
  split
  case isTrue hlow => simp [hlow]
  case isFalse => rfl

end Sys2Proof.Machine
end

section
/-! PROOFS. What each instruction does, as one of seven effects on the state, and what a step inside a trap routine leaves alone. -/

namespace Sys2Proof.Machine

open Sys2Proof.Claims

/-! ## The effects of the instructions -/

/-- What instruction `i` can make of the state `s`: the seven shapes of a meaning, each with what the statements say of its
instructions (10_state.md R20, R24, R29; 20_memory.md R52). -/
inductive Effect (i : Instr) (s : State) : State → Prop
  /-- A destination register is written and COND set from it. -/
  | dest (dr : Reg) (v : Word) (hflags : setsFlags i = true) (hpc : writesPc i = false) (hstore : storeOf s i = none)
      (hregs : writtenRegs i = [dr]) : Effect i s (s.writeDest dr v)
  /-- A register is stored. -/
  | store (ea : Word) (sr : Reg) (hflags : setsFlags i = false) (hpc : writesPc i = false)
      (hstore : storeOf s i = some (ea, sr)) (hregs : writtenRegs i = []) : Effect i s (s.storeWord ea (s.reg sr))
  /-- PC is written; a branch not taken writes it with the value it has. -/
  | jump (target : Word) (hflags : setsFlags i = false) (hpc : writesPc i = true) (hstore : storeOf s i = none)
      (hregs : writtenRegs i = []) : Effect i s (s.jumpTo target)
  /-- The link goes into R7 and PC is written. -/
  | linkJump (target : Word) (hflags : setsFlags i = false) (hpc : writesPc i = true) (hstore : storeOf s i = none)
      (hregs : writtenRegs i = [7]) : Effect i s (s.link.jumpTo target)
  /-- A trap routine runs after the trap entry. -/
  | routine (r : Routine) (hflags : setsFlags i = false) (hpc : writesPc i = false) (hstore : storeOf s i = none)
      (hregs : writtenRegs i = writtenRegs (instrOfRoutine r)) : Effect i s (s.trapEntry.runRoutine r)
  /-- A vector that selects no routine is the fault TRAP_UNKNOWN, after the trap entry. -/
  | unknownVector (hflags : setsFlags i = false) (hpc : writesPc i = false) (hstore : storeOf s i = none)
      (hregs : writtenRegs i = [7]) : Effect i s (s.trapEntry.raiseFault .trapUnknown)
  /-- RES and RTI fault. -/
  | reserved (c : FaultCause) (hc : c = .res ∨ c = .rti) (hflags : setsFlags i = false) (hpc : writesPc i = false)
      (hstore : storeOf s i = none) (hregs : writtenRegs i = []) : Effect i s (s.raiseFault c)

/-- A TRAP may write the registers of the routine its vector selects. -/
theorem writtenRegs_trap_of_routine {v : BitVec 8} {r : Routine} (h : routineOfVector v = some r) :
    writtenRegs (.trap v) = writtenRegs (instrOfRoutine r) := by
  unfold routineOfVector at h
  split_ifs at h <;> cases h <;> subst v <;> rfl

/-- A TRAP whose vector selects no routine may write R7 alone. -/
theorem writtenRegs_trap_of_unknown {v : BitVec 8} (h : routineOfVector v = none) : writtenRegs (.trap v) = [7] := by
  refine if_neg ?_
  rintro (rfl | rfl) <;> cases h

/-- TRAP has the effect of the routine its vector selects, or faults. -/
theorem execTrap_effect (v : BitVec 8) (s : State) : ∃ t, execTrap v s = .next t ∧ Effect (.trap v) s t := by
  unfold execTrap
  split
  next r hr => exact ⟨_, rfl, .routine r rfl rfl rfl (writtenRegs_trap_of_routine hr)⟩
  next hnone => exact ⟨_, rfl, .unknownVector rfl rfl rfl (writtenRegs_trap_of_unknown hnone)⟩

/-- A branch writes PC whether it is taken or not: with the target, or with the value PC has. -/
theorem execBr_eq_jumpTo (n z p : Bool) (off : BitVec 9) (s : State) :
    execBr n z p off s = .next (s.jumpTo (if s.branchTaken n z p then s.pcRelative off else s.pc)) := by
  unfold execBr
  split <;> rfl

/-- Every instruction has a next state on every state, by one of the effects. -/
theorem exec_effect (i : Instr) (s : State) : ∃ t, exec i s = .next t ∧ Effect i s t := by
  cases i with
  | addReg dr _ _ | addImm dr _ _ | andReg dr _ _ | andImm dr _ _ | not dr _ => exact ⟨_, rfl, .dest dr _ rfl rfl rfl rfl⟩
  | ld dr _ | ldi dr _ | ldr dr _ _ | lea dr _ => exact ⟨_, rfl, .dest dr _ rfl rfl rfl rfl⟩
  | st sr _ | sti sr _ | str sr _ _ => exact ⟨_, rfl, .store _ sr rfl rfl rfl rfl⟩
  | br n z p off => exact ⟨_, execBr_eq_jumpTo n z p off s, .jump _ rfl rfl rfl rfl⟩
  | jmp _ | ret => exact ⟨_, rfl, .jump _ rfl rfl rfl rfl⟩
  | jsr _ | jsrr _ => exact ⟨_, rfl, .linkJump _ rfl rfl rfl rfl⟩
  | trap v => exact execTrap_effect v s
  | getc => exact ⟨_, rfl, .routine .getc rfl rfl rfl rfl⟩
  | out => exact ⟨_, rfl, .routine .out rfl rfl rfl rfl⟩
  | puts => exact ⟨_, rfl, .routine .puts rfl rfl rfl rfl⟩
  | inEcho => exact ⟨_, rfl, .routine .inEcho rfl rfl rfl rfl⟩
  | putsp => exact ⟨_, rfl, .routine .putsp rfl rfl rfl rfl⟩
  | halt => exact ⟨_, rfl, .routine .halt rfl rfl rfl rfl⟩
  | res => exact ⟨_, rfl, .reserved .res (.inl rfl) rfl rfl rfl rfl⟩
  | rti => exact ⟨_, rfl, .reserved .rti (.inr rfl) rfl rfl rfl rfl⟩

/-- The next state an instruction gives is one of its effects. -/
theorem effect_of_exec {i : Instr} {s t : State} (h : exec i s = .next t) : Effect i s t := by
  obtain ⟨u, hu, heff⟩ := exec_effect i s
  cases hu.symm.trans h
  exact heff

/-! ## What a step inside a routine leaves alone -/

@[simp] theorem State.resume_pc (s : State) : s.resume.pc = s.pc := by
  obtain ⟨_, _, _, _, _, _, h⟩ := s.resume_eq
  rw [h]
@[simp] theorem State.resume_cond (s : State) : s.resume.cond = s.cond := by
  obtain ⟨_, _, _, _, _, _, h⟩ := s.resume_eq
  rw [h]
@[simp] theorem State.resume_mem (s : State) : s.resume.mem = s.mem := by
  obtain ⟨_, _, _, _, _, _, h⟩ := s.resume_eq
  rw [h]
@[simp] theorem State.resume_runState (s : State) : s.resume.runState = s.runState := by
  obtain ⟨_, _, _, _, _, _, h⟩ := s.resume_eq
  rw [h]
@[simp] theorem State.resume_fault (s : State) : s.resume.fault = s.fault := by
  obtain ⟨_, _, _, _, _, _, h⟩ := s.resume_eq
  rw [h]
@[simp] theorem State.resume_params (s : State) : s.resume.params = s.params := by
  obtain ⟨_, _, _, _, _, _, h⟩ := s.resume_eq
  rw [h]

/-- Going on inside a routine writes no register but R0 (44_trap.md R131, R134). -/
theorem State.resume_reg_of_ne {s : State} {q : Reg} (hq : q ≠ 0) : s.resume.reg q = s.reg q := by
  obtain ⟨regs, _, _, _, hregs, _, h⟩ := s.resume_eq
  rw [h]
  rcases hregs with rfl | ⟨b, rfl⟩
  · rfl
  · exact (s.writeReg_reg 0 (zextByte b) q).trans (if_neg hq)

/-- A step inside a routine goes on with it (44_trap.md R138). -/
theorem step_of_routine {s : State} (hrun : s.runState = .running) (hact : s.activity ≠ .idle) :
    step s = .next s.resume.retire := by
  cases h : s.activity with
  | idle => exact absurd h hact
  | awaitingByte r => simp [step, hrun, h]
  | writingString f a => simp [step, hrun, h]

/-- A next state inside a routine comes from going on with it, in a RUNNING block. -/
theorem eq_resume_of_step {s t : State} (h : step s = .next t) (hact : s.activity ≠ .idle) :
    s.runState = .running ∧ t = s.resume.retire := by
  obtain ⟨hrun, -⟩ := step_cases h
  rw [step_of_routine hrun hact] at h
  cases h
  exact ⟨hrun, rfl⟩

end Sys2Proof.Machine
end

section
/-! PROOFS. The invariant: each operation keeps it in the middle of a step, so every step and every run keeps it. -/

namespace Sys2Proof.Machine

/-- The invariant but for IR, which holds the instruction word while a step is in progress (10_state.md R37). -/
structure State.MidStepInv (s : State) : Prop where
  /-- As in `State.Inv`. -/
  memory : s.mem.wf
  /-- As in `State.Inv`. -/
  cond : s.cond = 0x0004#16 ∨ s.cond = 0x0002#16 ∨ s.cond = 0x0001#16 ∨ s.cond = s.params.condReset
  /-- As in `State.Inv`. -/
  record : s.runState = .faulted ↔ s.fault.cause ≠ .none
  /-- As in `State.Inv`. -/
  cause : s.fault.cause ≠ .regIndex
  /-- As in `State.Inv`. -/
  stopped : s.runState ≠ .running → s.activity = .idle

/-- Between two steps the invariant says more than in the middle of one. -/
theorem State.Inv.midStep {s : State} (h : s.Inv) : s.MidStepInv :=
  ⟨h.memory, h.cond, h.record, h.cause, h.stopped⟩

/-- The fetch writes IR and PC alone, so the invariant but for IR holds after it. -/
theorem State.Inv.fetch {s : State} (h : s.Inv) : s.fetch.MidStepInv :=
  ⟨h.memory, h.cond, h.record, h.cause, h.stopped⟩

/-- The end of a step restores what it says of IR. -/
theorem State.MidStepInv.retire {s : State} (h : s.MidStepInv) : s.retire.Inv where
  memory := by simpa using h.memory
  cond := by simpa using h.cond
  record := by simpa using h.record
  cause := by simpa using h.cause
  transient hidle := by rw [State.retire_ir, if_pos (by simpa using hidle)]
  stopped hstop := by simpa using h.stopped (by simpa using hstop)

/-- In a RUNNING block the fault record is empty (10_state.md R36). -/
theorem State.MidStepInv.cause_of_running {s : State} (h : s.MidStepInv) (hrun : s.runState = .running) :
    s.fault.cause = .none := by
  by_contra hcause
  have hfaulted := h.record.2 hcause
  rw [hrun] at hfaulted
  cases hfaulted

/-- What leaves memory, COND, the parameters, the run state and the fault record of a RUNNING block keeps the invariant. -/
theorem State.MidStepInv.of_frame {s t : State} (h : s.MidStepInv) (hrun : s.runState = .running) (hmem : t.mem = s.mem)
    (hcond : t.cond = s.cond) (hparams : t.params = s.params) (hrunState : t.runState = s.runState)
    (hfault : t.fault = s.fault) : t.MidStepInv where
  memory := hmem ▸ h.memory
  cond := by rw [hcond, hparams]; exact h.cond
  record := by rw [hrunState, hfault]; exact h.record
  cause := hfault ▸ h.cause
  stopped hstop := absurd (hrunState.trans hrun) hstop

/-- setcc writes NEG, ZERO or POS (10_state.md R27). -/
theorem Flag.word_cases (f : Flag) : f.word = 0x0004#16 ∨ f.word = 0x0002#16 ∨ f.word = 0x0001#16 := by
  cases f <;> simp [Flag.word]

theorem State.MidStepInv.writeDest {s : State} (h : s.MidStepInv) (dr : Reg) (v : Word) : (s.writeDest dr v).MidStepInv where
  memory := h.memory
  cond := by
    rw [State.writeDest_cond]
    rcases (classify v).word_cases with hneg | hzero | hpos
    · exact .inl hneg
    · exact .inr (.inl hzero)
    · exact .inr (.inr (.inl hpos))
  record := h.record
  cause := h.cause
  stopped := h.stopped

theorem State.MidStepInv.storeWord {s : State} (h : s.MidStepInv) (a v : Word) : (s.storeWord a v).MidStepInv where
  memory := Memory.wf_write h.memory a v
  cond := h.cond
  record := h.record
  cause := h.cause
  stopped := h.stopped

theorem State.MidStepInv.trapEntry {s : State} (h : s.MidStepInv) : s.trapEntry.MidStepInv :=
  ⟨h.memory, h.cond, h.record, h.cause, h.stopped⟩

/-- Halting a RUNNING block between routines keeps the invariant: its record is empty. -/
theorem State.MidStepInv.halt {s : State} (h : s.MidStepInv) (hrun : s.runState = .running) (hidle : s.activity = .idle) :
    s.halt.MidStepInv where
  memory := h.memory
  cond := h.cond
  record := by simp [h.cause_of_running hrun]
  cause := h.cause
  stopped _ := hidle

/-- Raising a fault between routines keeps the invariant: the record is filled as the block becomes FAULTED. -/
theorem State.MidStepInv.raiseFault {s : State} (h : s.MidStepInv) (hidle : s.activity = .idle) {c : FaultCause}
    (hnone : c ≠ .none) (hreg : c ≠ .regIndex) : (s.raiseFault c).MidStepInv where
  memory := h.memory
  cond := h.cond
  record := by simp [hnone]
  cause := hreg
  stopped _ := hidle

/-- A trap routine keeps the invariant: HALT stops a block that is inside no routine, and the others leave it RUNNING. -/
theorem State.MidStepInv.runRoutine {s : State} (h : s.MidStepInv) (hrun : s.runState = .running)
    (hidle : s.activity = .idle) (r : Routine) : (s.runRoutine r).MidStepInv := by
  by_cases hr : r = .halt
  · subst hr
    exact State.MidStepInv.halt (s := s.emit .flush) (h.of_frame hrun rfl rfl rfl rfl rfl) hrun hidle
  · obtain ⟨-, hcond, -, hmem, hrunState, hfault, hparams, -⟩ := s.runRoutine_frame r
    exact h.of_frame hrun hmem hcond hparams (by rw [hrunState, if_neg hr]) hfault

/-- Every instruction keeps the invariant in the middle of the step that runs it. -/
theorem Effect.midStepInv {i : Instr} {s t : State} (he : Effect i s t) (h : s.MidStepInv) (hrun : s.runState = .running)
    (hidle : s.activity = .idle) : t.MidStepInv := by
  cases he with
  | dest dr v => exact h.writeDest dr v
  | store ea sr => exact h.storeWord ea (s.reg sr)
  | jump target => exact h.of_frame hrun rfl rfl rfl rfl rfl
  | linkJump target => exact h.of_frame hrun rfl rfl rfl rfl rfl
  | routine r => exact h.trapEntry.runRoutine hrun hidle r
  | unknownVector => exact h.trapEntry.raiseFault hidle (by decide) (by decide)
  | reserved c hc =>
    rcases hc with rfl | rfl
    · exact h.raiseFault hidle (by decide) (by decide)
    · exact h.raiseFault hidle (by decide) (by decide)

/-- Settles O54: each kind of step keeps the invariant but for IR, and the end of the step restores that part. -/
theorem stepKeepsInv : Obligations.StepKeepsInv := by
  intro s t h hstep
  obtain ⟨hrun, ⟨hidle, -, rfl⟩ | ⟨hidle, -, u, hexec, rfl⟩ | ⟨-, rfl⟩⟩ := step_cases hstep
  · have hhalt := h.midStep.halt hrun hidle
    exact ⟨hhalt.memory, hhalt.cond, hhalt.record, hhalt.cause, h.transient, hhalt.stopped⟩
  · exact ((effect_of_exec hexec).midStepInv h.fetch hrun hidle).retire
  · exact (h.midStep.of_frame (t := s.resume) hrun (by simp) (by simp) (by simp) (by simp) (by simp)).retire

/-! ## Runs -/

/-- No instruction changes a parameter (00_scope.md R6). -/
theorem Effect.params_eq {i : Instr} {s t : State} (he : Effect i s t) : t.params = s.params := by
  cases he with
  | routine r =>
    obtain ⟨-, -, -, -, -, -, hparams, -⟩ := s.trapEntry.runRoutine_frame r
    exact hparams
  | dest | store | jump | linkJump | unknownVector | reserved => rfl

/-- No step changes a parameter. -/
theorem step_params {s t : State} (h : step s = .next t) : t.params = s.params := by
  obtain ⟨-, ⟨-, -, rfl⟩ | ⟨-, -, u, hexec, rfl⟩ | ⟨-, rfl⟩⟩ := step_cases h
  · rfl
  · simpa using (effect_of_exec hexec).params_eq
  · simp

/-- A launch meets the invariant when its memory has the canonical form. -/
theorem State.launched_inv (p : Params) {m : Memory} (hm : m.wf) : (State.launched p m).Inv where
  memory := hm
  cond := .inr (.inr (.inr rfl))
  record := by simp [State.launched]
  cause := by simp [State.launched]
  transient _ := rfl
  stopped _ := rfl

/-- The bytes the host supplies are no part of the invariant. -/
theorem State.Inv.supply {s : State} (h : s.Inv) (b : Byte) : (s.supply b).Inv :=
  ⟨h.memory, h.cond, h.record, h.cause, h.transient, h.stopped⟩

/-- Settles O55, by induction on how the state is reached. -/
theorem reachableStatesMeetInv : Obligations.ReachableStatesMeetInv := by
  intro p m s hm hreach
  induction hreach with
  | launch => exact ⟨State.launched_inv p hm, rfl⟩
  | step _ hstep ih =>
    obtain ⟨hinv, hparams⟩ := ih
    exact ⟨stepKeepsInv _ _ hinv hstep, (step_params hstep).trans hparams⟩
  | supply b _ ih =>
    obtain ⟨hinv, hparams⟩ := ih
    exact ⟨hinv.supply b, hparams⟩

end Sys2Proof.Machine
end

section
/-! PROOFS. Who writes COND, the general registers and PC: each read off the effects (spec/10_state.md R20, R24, R29). -/

namespace Sys2Proof.Machine

open Sys2Proof.Claims

/-- An instruction that sets no flags leaves COND (10_state.md R29). -/
theorem Effect.cond_eq {i : Instr} {s t : State} (he : Effect i s t) (hi : setsFlags i = false) : t.cond = s.cond := by
  cases he with
  | dest dr v hflags => rw [hi] at hflags; cases hflags
  | routine r =>
    obtain ⟨-, hcond, -⟩ := s.trapEntry.runRoutine_frame r
    exact hcond
  | store | jump | linkJump | unknownVector | reserved => rfl

/-- A flag-setting instruction sets COND by setcc of the one register it writes (40_sequencer.md R92). -/
theorem Effect.cond_eq_setcc {i : Instr} {s t : State} (he : Effect i s t) (hi : setsFlags i = true) :
    ∃ dr, writtenRegs i = [dr] ∧ t.cond = (s.setcc (t.reg dr)).cond := by
  cases he with
  | dest dr v _ _ _ hregs => exact ⟨dr, hregs, by simp⟩
  | store _ _ hflags | jump _ hflags | linkJump _ hflags | routine _ hflags | unknownVector hflags | reserved _ _ hflags =>
    rw [hi] at hflags; cases hflags

/-- Settles O43: the effects that are not a destination write leave COND, and a routine leaves it. -/
theorem onlySevenInstructionsWriteCond : Obligations.OnlySevenInstructionsWriteCond := by
  refine ⟨fun _ _ _ h hi => (effect_of_exec h).cond_eq hi, fun _ _ _ h hi => (effect_of_exec h).cond_eq_setcc hi, ?_⟩
  intro s t h hact
  obtain ⟨-, rfl⟩ := eq_resume_of_step h hact
  simp

/-- Every routine's instruction may write R7, the link. -/
theorem seven_mem_writtenRegs (r : Routine) : 7 ∈ writtenRegs (instrOfRoutine r) := by
  cases r <;> decide

/-- The two reading routines may write R0. -/
theorem zero_mem_writtenRegs {r : Routine} (hr : r = .getc ∨ r = .inEcho) : 0 ∈ writtenRegs (instrOfRoutine r) := by
  rcases hr with rfl | rfl <;> decide

/-- A trap routine writes R7 at its entry, and R0 only in GETC and IN (44_trap.md R130). -/
theorem sameRegs_runRoutine (s : State) (r : Routine) :
    SameRegs s (s.trapEntry.runRoutine r) (writtenRegs (instrOfRoutine r)) := by
  obtain ⟨-, -, -, -, -, -, -, -, -, hframe⟩ := s.trapEntry.runRoutine_frame r
  intro q hq
  have hq7 : q ≠ 7 := fun h => hq (h ▸ seven_mem_writtenRegs r)
  have hq0 : q ≠ 0 ∨ (r ≠ .getc ∧ r ≠ .inEcho) := by
    by_cases hr : r = .getc ∨ r = .inEcho
    · exact .inl fun h => hq (h ▸ zero_mem_writtenRegs hr)
    · exact .inr (not_or.1 hr)
  rw [hframe q hq0, State.trapEntry_reg, if_neg hq7]

/-- An instruction writes no register but those listed for it (10_state.md R20). -/
theorem Effect.sameRegs {i : Instr} {s t : State} (he : Effect i s t) : SameRegs s t (writtenRegs i) := by
  cases he with
  | dest dr v _ _ _ hregs =>
    intro q hq
    rw [hregs, List.mem_singleton] at hq
    rw [State.writeDest_reg, if_neg hq]
  | linkJump target _ _ _ hregs =>
    intro q hq
    rw [hregs, List.mem_singleton] at hq
    rw [State.jumpTo_reg, State.link_reg, if_neg hq]
  | routine r _ _ _ hregs => rw [hregs]; exact sameRegs_runRoutine s r
  | unknownVector _ _ _ hregs =>
    intro q hq
    rw [hregs, List.mem_singleton] at hq
    rw [State.raiseFault_reg, State.trapEntry_reg, if_neg hq]
  | store | jump | reserved => exact fun _ _ => rfl

/-- Settles O45: each effect writes the listed registers alone, and going on inside a routine R0 alone. -/
theorem onlyListedRegistersWritten : Obligations.OnlyListedRegistersWritten := by
  refine ⟨fun _ _ _ h => (effect_of_exec h).sameRegs, ?_⟩
  intro s t h hact q hq
  obtain ⟨-, rfl⟩ := eq_resume_of_step h hact
  rw [State.retire_reg, State.resume_reg_of_ne (by simpa using hq)]

/-- An instruction that is no control transfer leaves the post-increment PC (10_state.md R24). -/
theorem Effect.pc_eq {i : Instr} {s t : State} (he : Effect i s t) (hi : writesPc i = false) : t.pc = s.pc := by
  cases he with
  | jump _ _ hpc | linkJump _ _ hpc => rw [hi] at hpc; cases hpc
  | routine r =>
    obtain ⟨hpc, -⟩ := s.trapEntry.runRoutine_frame r
    exact hpc
  | dest | store | unknownVector | reserved => rfl

/-- Settles O46: the effects that are no jump leave PC, and a routine leaves it. -/
theorem onlyControlTransfersWritePc : Obligations.OnlyControlTransfersWritePc := by
  refine ⟨fun _ _ _ h hi => (effect_of_exec h).pc_eq hi, ?_⟩
  intro s t h hact
  obtain ⟨-, rfl⟩ := eq_resume_of_step h hact
  simp

end Sys2Proof.Machine
end

section
/-! PROOFS. Nobody but BR reads COND: every other operation commutes with a change of COND (spec/10_state.md R28). -/

namespace Sys2Proof.Machine

open Sys2Proof.Claims

/-- The state with another word in COND. -/
def State.withCond (s : State) (c : Word) : State := { s with cond := c }

@[simp] theorem State.withCond_activity (s : State) (c : Word) : (s.withCond c).activity = s.activity := rfl

theorem State.readByteFor_withCond (s : State) (c : Word) (r : ReadRoutine) :
    (s.withCond c).readByteFor r = (s.readByteFor r).withCond c := by
  cases h : s.input with
  | nil => rw [s.readByteFor_none r h, (s.withCond c).readByteFor_none r h]; rfl
  | cons b rest =>
    rw [s.readByteFor_some r h, (s.withCond c).readByteFor_some r h]
    cases r <;> rfl

theorem State.runRoutine_withCond (s : State) (c : Word) (r : Routine) :
    (s.withCond c).runRoutine r = (s.runRoutine r).withCond c := by
  cases r with
  | getc => exact s.readByteFor_withCond c .getc
  | inEcho => exact (s.writeBytes s.params.inPrompt).readByteFor_withCond c .inEcho
  | out | puts | putsp | halt => rfl

theorem execTrap_withCond (v : BitVec 8) (s : State) (c : Word) :
    execTrap v (s.withCond c) = onNext (·.withCond c) (execTrap v s) := by
  unfold execTrap
  split
  next r _ => exact congrArg _ (s.trapEntry.runRoutine_withCond c r)
  next => rfl

/-- An instruction that is not BR gives from another COND the same next state but for COND, which a flag-setting one
overwrites. -/
theorem exec_withCond (i : Instr) (s : State) (c : Word) (hbr : ∀ n z p off, i ≠ .br n z p off) :
    exec i (s.withCond c) = onNext (fun t => if setsFlags i then t else t.withCond c) (exec i s) := by
  cases i with
  | br n z p off => exact absurd rfl (hbr n z p off)
  | addReg | addImm | andReg | andImm | not | ld | ldi | ldr | lea => rfl
  | st | sti | str | jmp | ret | jsr | jsrr | res | rti => rfl
  | out | puts | putsp | halt => rfl
  | trap v => exact execTrap_withCond v s c
  | getc => exact congrArg _ (s.trapEntry.runRoutine_withCond c .getc)
  | inEcho => exact congrArg _ (s.trapEntry.runRoutine_withCond c .inEcho)

theorem State.resume_withCond (s : State) (c : Word) : (s.withCond c).resume = s.resume.withCond c := by
  unfold State.resume
  rw [State.withCond_activity]
  split
  next => rfl
  next r _ => exact s.readByteFor_withCond c r
  next => rfl

theorem State.retire_withCond (s : State) (c : Word) : (s.withCond c).retire = s.retire.withCond c := by
  unfold State.retire
  rw [State.withCond_activity]
  split <;> rfl

/-- Settles O44: COND is in the way of no instruction but BR, nor of going on inside a routine. -/
theorem onlyBranchReadsCond : Obligations.OnlyBranchReadsCond := by
  constructor
  · intro i s t c hbr h
    exact (exec_withCond i s c hbr).trans (by rw [h]; rfl)
  · intro s t c h hact
    obtain ⟨hrun, rfl⟩ := eq_resume_of_step h hact
    have hstep : step (s.withCond c) = .next (s.withCond c).resume.retire := step_of_routine hrun hact
    rwa [State.resume_withCond, State.retire_withCond] at hstep

end Sys2Proof.Machine
end

section
/-! PROOFS. Memory: who writes it, and the fetch of a word stored just before (spec/20_memory.md R52, R60). -/

namespace Sys2Proof.Machine

open Sys2Proof.Claims

/-! ## Who writes memory -/

/-- An instruction that is no store leaves memory (20_memory.md R52). -/
theorem Effect.mem_eq {i : Instr} {s t : State} (he : Effect i s t) (hi : storeOf s i = none) : t.mem = s.mem := by
  cases he with
  | store _ _ _ _ hstore => rw [hi] at hstore; cases hstore
  | routine r =>
    obtain ⟨-, -, -, hmem, -⟩ := s.trapEntry.runRoutine_frame r
    exact hmem
  | dest | jump | linkJump | unknownVector | reserved => rfl

/-- A store writes its register at its computed address, and nothing else (43_load_store.md R125 to R127). -/
theorem Effect.eq_storeWord {i : Instr} {s t : State} (he : Effect i s t) {ea : Word} {sr : Reg}
    (hi : storeOf s i = some (ea, sr)) : t = s.storeWord ea (s.reg sr) := by
  cases he with
  | store _ _ _ _ hstore =>
    cases hi.symm.trans hstore
    rfl
  | dest _ _ _ _ hstore | jump _ _ _ hstore | linkJump _ _ _ hstore | routine _ _ _ hstore | unknownVector _ _ hstore
  | reserved _ _ _ _ hstore => rw [hi] at hstore; cases hstore

/-- A store puts its word at its address and leaves every other word. -/
theorem State.storeWord_read (s : State) (ea v : Word) :
    (s.storeWord ea v).mem.read ea = v ∧ ∀ a, a ≠ ea → (s.storeWord ea v).mem.read a = s.mem.read a :=
  ⟨by simp, fun a ha => by simp [ha]⟩

/-- Settles O47: the effects that are no store leave memory, a store is one `storeWord`, and a routine leaves memory. -/
theorem onlyStoresChangeMemory : Obligations.OnlyStoresChangeMemory := by
  refine ⟨fun i s t h => ⟨fun hi a => by rw [(effect_of_exec h).mem_eq hi], fun ea sr hi => ?_⟩, ?_⟩
  · cases (effect_of_exec h).eq_storeWord hi
    exact s.storeWord_read ea (s.reg sr)
  · intro s t h hact a
    obtain ⟨-, rfl⟩ := eq_resume_of_step h hact
    simp

/-! ## Fetching what was stored -/

/-- A block about to fetch runs the instruction it fetches (40_sequencer.md R96, R99). -/
theorem step_of_fetches {s : State} (h : Fetches s) :
    step s = onNext State.retire (exec (decode s.fetch.ir) s.fetch) := by
  obtain ⟨hrun, hidle, hguard⟩ := h
  exact step_of_fetch hrun hidle (by rwa [← s.guardFires_iff, Bool.not_eq_true] at hguard)

/-- A store makes one `storeWord` of the fetched state. -/
theorem exec_of_storeOf {s : State} {i : Instr} {ea : Word} {sr : Reg} (hi : storeOf s i = some (ea, sr)) :
    exec i s = .next (s.storeWord ea (s.reg sr)) := by
  obtain ⟨t, hexec, heff⟩ := exec_effect i s
  rw [hexec, heff.eq_storeWord hi]

/-- Settles O49: the step ends in the store, which leaves PC at the stored address, so the next fetch reads the stored word. -/
theorem fetchSeesEarlierStore : Obligations.FetchSeesEarlierStore := by
  rintro s _ sr hfetch rfl hstore
  have hstep : step s = .next (s.fetch.storeWord (s.pc + 1#16) (s.fetch.reg sr)).retire := by
    rw [step_of_fetches hfetch, State.fetch_ir, exec_of_storeOf hstore, onNext_next]
  have hir : (s.fetch.storeWord (s.pc + 1#16) (s.fetch.reg sr)).retire.fetch.ir = s.reg sr := by simp
  refine ⟨_, hstep, by simp, hir, fun hnext => ?_⟩
  rw [step_of_fetches hnext, hir]

end Sys2Proof.Machine
end

section
/-! PROOFS. The image: a stream of big-endian words, and the images a launch is refused for (spec/20_memory.md R49,
spec/70_reset_and_hazards.md R171). -/

namespace Sys2Proof.Machine

open Sys2Proof.Claims

/-- A pair of bytes makes the word with the first above the second (20_memory.md R49). -/
theorem wordOfBytes_eq_append (b0 b1 : Byte) : wordOfBytes b0 b1 = b0 ++ b1 := by
  rw [wordOfBytes, ← BitVec.setWidth_append_eq_shiftLeft_setWidth_or, BitVec.setWidth_eq]

theorem wordOfBytes_toNat (b0 b1 : Byte) : (wordOfBytes b0 b1).toNat = b0.toNat * 256 + b1.toNat := by
  rw [wordOfBytes_eq_append, BitVec.toNat_append, ← Nat.shiftLeft_add_eq_or_of_lt b1.isLt, Nat.shiftLeft_eq]

/-- The big-endian bytes of a word make the word again. -/
theorem wordOfBytes_extractLsb' (w : Word) : wordOfBytes (w.extractLsb' 8 8) (w.extractLsb' 0 8) = w :=
  (wordOfBytes_eq_append _ _).trans BitVec.extractLsb'_append_extractLsb'

/-- Reading undoes writing: the stream of some words gives these words. -/
theorem wordsOfBytes_flatMap_bigEndian (ws : List Word) : wordsOfBytes (ws.flatMap bigEndian) = some ws := by
  induction ws with
  | nil => rfl
  | cons w ws ih => simp [bigEndian, wordsOfBytes, ih, wordOfBytes_extractLsb']

/-- A stream with an odd number of bytes is no stream of words. -/
theorem wordsOfBytes_of_odd {bytes : List Byte} (h : bytes.length % 2 = 1) : wordsOfBytes bytes = none := by
  induction bytes using wordsOfBytes.induct with
  | case1 => cases h
  | case2 => rfl
  | case3 b0 b1 rest ih =>
    have hrest : rest.length % 2 = 1 := by simpa [Nat.add_assoc] using h
    simp [wordsOfBytes, ih hrest]

/-- Loading the stream of some words is loading the words. -/
theorem loadImage_flatMap_bigEndian (ws : List Word) : loadImage (some (ws.flatMap bigEndian)) = loadWords ws := by
  simp [loadImage, wordsOfBytes_flatMap_bigEndian]

/-- Settles O52: reading the stream undoes the big-endian writing of the words, and each refusal is the loader's own test. -/
theorem imageReadBigEndianOrRefused : Obligations.ImageReadBigEndianOrRefused := by
  refine ⟨wordOfBytes_toNat, wordsOfBytes_flatMap_bigEndian, rfl, rfl, fun bytes hodd => ?_, fun o ws hpast => ?_⟩
  · simp [loadImage, wordsOfBytes_of_odd hodd]
  · rw [loadImage_flatMap_bigEndian, loadWords, if_pos hpast]

end Sys2Proof.Machine
end

section
/-! PROOFS. The encoding: the row of the opcode map a word stands in fixes what it decodes to, and the row's mask together with the fields'
are the bits the decoder reads (spec/30_encoding.md R64 to R75, R79, R80, R85). -/

namespace Sys2Proof

open Sys2Proof.Claims

/-! ## Masks and fields of a word -/

/-- A mask fixes the bits it selects. -/
theorem getLsbD_of_and_eq {w m c : Word} (h : w &&& m = c) {i : Nat} (hi : m.getLsbD i = true) : w.getLsbD i = c.getLsbD i := by
  rw [← h, BitVec.getLsbD_and, hi, Bool.and_true]

/-- A word in one row stands in no row whose match differs at a bit both masks select. -/
theorem and_ne_of_clash {w m c m' c' : Word} (h : w &&& m = c) (hclash : c &&& m' ≠ c' &&& m) : w &&& m' ≠ c' := by
  rintro rfl
  exact hclash (by rw [← h, BitVec.and_assoc, BitVec.and_assoc, BitVec.and_comm m])

theorem getLsbD_placed {n : Nat} (f : BitVec n) (lo i : Nat) :
    (placed f lo).getLsbD i = (decide (lo ≤ i ∧ i < 16) && f.getLsbD (i - lo)) := by
  rw [placed, BitVec.getLsbD_shiftLeft, BitVec.getLsbD_setWidth]
  grind

/-- The mask of a field, with its lowest bit at `lo`. -/
def fieldMask (lo n : Nat) : Word := placed (BitVec.allOnes n) lo

/-- A field put back where it was read is the word with every other bit 0. -/
theorem placed_extractLsb' (w : Word) (lo n : Nat) : placed (w.extractLsb' lo n) lo = w &&& fieldMask lo n := by
  apply BitVec.eq_of_getLsbD_eq
  intro i hi
  have hfield : lo ≤ i → lo + (i - lo) = i := Nat.add_sub_cancel'
  simp only [fieldMask, BitVec.getLsbD_and, getLsbD_placed, BitVec.getLsbD_extractLsb', BitVec.getLsbD_allOnes]
  grind

/-- Putting a field back beside some bits of its word selects the field's bits too. -/
theorem and_or_placed_extractLsb' (w m : Word) (lo n : Nat) :
    w &&& m ||| placed (w.extractLsb' lo n) lo = w &&& (m ||| fieldMask lo n) := by
  rw [placed_extractLsb', BitVec.and_or_distrib_left]

theorem ofBool_getLsbD (w : Word) (i : Nat) : BitVec.ofBool (w.getLsbD i) = w.extractLsb' i 1 := by
  apply BitVec.eq_of_getLsbD_eq
  intro j hj
  obtain rfl : j = 0 := by omega
  simp

theorem regBits_regField (w : Word) (lo : Nat) : regBits (regField w lo) = w.extractLsb' lo 3 := rfl

/-- A field sets no bit outside its mask. -/
theorem placed_and_eq_zero {n : Nat} {m : Word} (f : BitVec n) {lo : Nat} (h : fieldMask lo n &&& m = 0#16) :
    placed f lo &&& m = 0#16 := by
  apply BitVec.eq_of_getLsbD_eq
  intro i hi
  have hbit := congrArg (BitVec.getLsbD · i) h
  simp only [BitVec.getLsbD_and, BitVec.getLsbD_zero, getLsbD_placed, fieldMask, BitVec.getLsbD_allOnes] at hbit ⊢
  grind [BitVec.lt_of_getLsbD]

/-- A field put into a word is read back. -/
@[simp] theorem extractLsb'_placed {n : Nat} (f : BitVec n) {lo : Nat} (hlo : lo + n ≤ 16) : (placed f lo).extractLsb' lo n = f := by
  apply BitVec.eq_of_getLsbD_eq
  intro i hi
  rw [BitVec.getLsbD_extractLsb', getLsbD_placed, Nat.add_sub_cancel_left]
  grind

/-- A field put elsewhere is not read. -/
@[simp] theorem extractLsb'_placed_of_disjoint {n k : Nat} (f : BitVec n) {lo start : Nat} (h : start + k ≤ lo ∨ lo + n ≤ start) :
    (placed f lo).extractLsb' start k = 0#k := by
  apply BitVec.eq_of_getLsbD_eq
  intro i hi
  rw [BitVec.getLsbD_extractLsb', getLsbD_placed, BitVec.getLsbD_zero]
  grind [BitVec.lt_of_getLsbD]

/-! ## The rows -/

/-- The instruction of each of the nineteen rows (R79), its fields read from the word (R64 to R74). -/
inductive InRow (w : Word) : Instr → Prop
  | br (h : w &&& 0xF000#16 = 0x0000#16) : InRow w (.br (w.getLsbD 11) (w.getLsbD 10) (w.getLsbD 9) (w.extractLsb' 0 9))
  | addReg (h : w &&& 0xF020#16 = 0x1000#16) : InRow w (.addReg (regField w 9) (regField w 6) (regField w 0))
  | addImm (h : w &&& 0xF020#16 = 0x1020#16) : InRow w (.addImm (regField w 9) (regField w 6) (w.extractLsb' 0 5))
  | ld (h : w &&& 0xF000#16 = 0x2000#16) : InRow w (.ld (regField w 9) (w.extractLsb' 0 9))
  | st (h : w &&& 0xF000#16 = 0x3000#16) : InRow w (.st (regField w 9) (w.extractLsb' 0 9))
  | jsrr (h : w &&& 0xF800#16 = 0x4000#16) : InRow w (.jsrr (regField w 6))
  | jsr (h : w &&& 0xF800#16 = 0x4800#16) : InRow w (.jsr (w.extractLsb' 0 11))
  | andReg (h : w &&& 0xF020#16 = 0x5000#16) : InRow w (.andReg (regField w 9) (regField w 6) (regField w 0))
  | andImm (h : w &&& 0xF020#16 = 0x5020#16) : InRow w (.andImm (regField w 9) (regField w 6) (w.extractLsb' 0 5))
  | ldr (h : w &&& 0xF000#16 = 0x6000#16) : InRow w (.ldr (regField w 9) (regField w 6) (w.extractLsb' 0 6))
  | str (h : w &&& 0xF000#16 = 0x7000#16) : InRow w (.str (regField w 9) (regField w 6) (w.extractLsb' 0 6))
  | rti (h : w &&& 0xF000#16 = 0x8000#16) : InRow w .rti
  | not (h : w &&& 0xF000#16 = 0x9000#16) : InRow w (.not (regField w 9) (regField w 6))
  | ldi (h : w &&& 0xF000#16 = 0xA000#16) : InRow w (.ldi (regField w 9) (w.extractLsb' 0 9))
  | sti (h : w &&& 0xF000#16 = 0xB000#16) : InRow w (.sti (regField w 9) (w.extractLsb' 0 9))
  | jmp (h : w &&& 0xF000#16 = 0xC000#16) : InRow w (decodeJmp (regField w 6))
  | res (h : w &&& 0xF000#16 = 0xD000#16) : InRow w .res
  | lea (h : w &&& 0xF000#16 = 0xE000#16) : InRow w (.lea (regField w 9) (w.extractLsb' 0 9))
  | trap (h : w &&& 0xF000#16 = 0xF000#16) : InRow w (decodeTrap (w.extractLsb' 0 8))

/-- A word decodes to the instruction of a row it stands in. -/
theorem InRow.decode_eq {w : Word} {i : Instr} (hi : InRow w i) : decode w = i := by
  cases hi with
  | br h | addReg h | addImm h | ld h | st h | jsrr h | jsr h | andReg h | andImm h | ldr h | str h | rti h | not h | ldi h | sti h
  | jmp h | res h | lea h | trap h => simp [decode, getLsbD_of_and_eq h, -BitVec.getLsbD_eq_getElem]

/-- The opcode of a word, from its four bits. -/
theorem and_opcodeMask {w c : Word} (h15 : w.getLsbD 15 = c.getLsbD 15) (h14 : w.getLsbD 14 = c.getLsbD 14)
    (h13 : w.getLsbD 13 = c.getLsbD 13) (h12 : w.getLsbD 12 = c.getLsbD 12) (hc : c &&& 0xF000#16 = c := by decide) :
    w &&& 0xF000#16 = c := by
  have hop : w.extractLsb' 12 4 = c.extractLsb' 12 4 := by
    apply Laws.OpcodeField.opcode_of_bits <;> simpa
  calc w &&& 0xF000#16 = placed (w.extractLsb' 12 4) 12 := (placed_extractLsb' w 12 4).symm
    _ = placed (c.extractLsb' 12 4) 12 := by rw [hop]
    _ = c := (placed_extractLsb' c 12 4).trans hc

/-- A mask with one bit more. -/
theorem and_or_bit {w m c : Word} (h : w &&& m = c) (i : Nat) :
    w &&& (m ||| BitVec.twoPow 16 i) = c ||| if w.getLsbD i then BitVec.twoPow 16 i else 0#16 := by
  rw [BitVec.and_or_distrib_left, h, BitVec.and_twoPow]

/-- The rows leave no word out (R63): one row, or two told apart by bit 5 or 11, for each opcode. -/
theorem exists_inRow (w : Word) : ∃ i, InRow w i := by
  match h15 : w.getLsbD 15, h14 : w.getLsbD 14, h13 : w.getLsbD 13, h12 : w.getLsbD 12 with
  | false, false, false, false => exact ⟨_, .br (and_opcodeMask h15 h14 h13 h12)⟩
  | false, false, false, true =>
    have h := and_or_bit (c := 0x1000#16) (and_opcodeMask h15 h14 h13 h12) 5
    cases h5 : w.getLsbD 5 <;> rw [h5] at h
    · exact ⟨_, .addReg h⟩
    · exact ⟨_, .addImm h⟩
  | false, false, true, false => exact ⟨_, .ld (and_opcodeMask h15 h14 h13 h12)⟩
  | false, false, true, true => exact ⟨_, .st (and_opcodeMask h15 h14 h13 h12)⟩
  | false, true, false, false =>
    have h := and_or_bit (c := 0x4000#16) (and_opcodeMask h15 h14 h13 h12) 11
    cases h11 : w.getLsbD 11 <;> rw [h11] at h
    · exact ⟨_, .jsrr h⟩
    · exact ⟨_, .jsr h⟩
  | false, true, false, true =>
    have h := and_or_bit (c := 0x5000#16) (and_opcodeMask h15 h14 h13 h12) 5
    cases h5 : w.getLsbD 5 <;> rw [h5] at h
    · exact ⟨_, .andReg h⟩
    · exact ⟨_, .andImm h⟩
  | false, true, true, false => exact ⟨_, .ldr (and_opcodeMask h15 h14 h13 h12)⟩
  | false, true, true, true => exact ⟨_, .str (and_opcodeMask h15 h14 h13 h12)⟩
  | true, false, false, false => exact ⟨_, .rti (and_opcodeMask h15 h14 h13 h12)⟩
  | true, false, false, true => exact ⟨_, .not (and_opcodeMask h15 h14 h13 h12)⟩
  | true, false, true, false => exact ⟨_, .ldi (and_opcodeMask h15 h14 h13 h12)⟩
  | true, false, true, true => exact ⟨_, .sti (and_opcodeMask h15 h14 h13 h12)⟩
  | true, true, false, false => exact ⟨_, .jmp (and_opcodeMask h15 h14 h13 h12)⟩
  | true, true, false, true => exact ⟨_, .res (and_opcodeMask h15 h14 h13 h12)⟩
  | true, true, true, false => exact ⟨_, .lea (and_opcodeMask h15 h14 h13 h12)⟩
  | true, true, true, true => exact ⟨_, .trap (and_opcodeMask h15 h14 h13 h12)⟩

/-- What a word decodes to is the instruction of a row it stands in. -/
theorem inRow_decode (w : Word) : InRow w (decode w) := by
  obtain ⟨i, hi⟩ := exists_inRow w
  exact hi.decode_eq ▸ hi

/-! ## RET and the routine names -/

theorem decodeJmp_of_ne {base : Reg} (h : base ≠ 7) : decodeJmp base = .jmp base := if_neg h

theorem vectorOfRoutine_of_routineOfVector {v : BitVec 8} {r : Routine} (h : routineOfVector v = some r) : vectorOfRoutine r = v := by
  unfold routineOfVector at h
  split_ifs at h <;> cases h <;> subst v <;> rfl

/-- The vectors that select no routine are those outside x20 to x25 (R80). -/
theorem routineOfVector_eq_none_iff (v : BitVec 8) : routineOfVector v = none ↔ UnknownVector v := by
  unfold UnknownVector
  constructor
  · intro h
    by_contra hv
    unfold routineOfVector at h
    split_ifs at h
    bv_omega
  · intro hv
    cases h : routineOfVector v with
    | none => rfl
    | some r =>
      rw [← vectorOfRoutine_of_routineOfVector h] at hv
      cases r <;> simp [vectorOfRoutine] at hv

theorem decodeTrap_of_unknown {v : BitVec 8} (h : UnknownVector v) : decodeTrap v = .trap v := by
  simp [decodeTrap, (routineOfVector_eq_none_iff v).2 h]

/-! ## Encoding, then decoding -/

/-- An encoding has the match of its row: no field reaches under the row's mask. -/
theorem encode_and_row (i : Instr) : encode i &&& (rowOf i).1 = (rowOf i).2 := by
  cases i <;> simp (disch := decide) [encode, encodeJmp, encodeTrap, rowOf, BitVec.and_or_distrib_right, placed_and_eq_zero]

/-- The encoding of a well-formed instruction stands in the instruction's row, and every field is read back. -/
theorem inRow_encode {i : Instr} (hwf : i.wellFormed = true) : InRow (encode i) i := by
  have hrow := encode_and_row i
  cases i with
  | addReg => simpa [encode, regField, regBits, BitVec.extractLsb'_or] using InRow.addReg hrow
  | addImm => simpa [encode, regField, regBits, BitVec.extractLsb'_or] using InRow.addImm hrow
  | ld => simpa [encode, regField, regBits, BitVec.extractLsb'_or] using InRow.ld hrow
  | st => simpa [encode, regField, regBits, BitVec.extractLsb'_or] using InRow.st hrow
  | jsrr => simpa [encode, regField, regBits, BitVec.extractLsb'_or] using InRow.jsrr hrow
  | jsr => simpa [encode, regField, regBits, BitVec.extractLsb'_or] using InRow.jsr hrow
  | andReg => simpa [encode, regField, regBits, BitVec.extractLsb'_or] using InRow.andReg hrow
  | andImm => simpa [encode, regField, regBits, BitVec.extractLsb'_or] using InRow.andImm hrow
  | ldr => simpa [encode, regField, regBits, BitVec.extractLsb'_or] using InRow.ldr hrow
  | str => simpa [encode, regField, regBits, BitVec.extractLsb'_or] using InRow.str hrow
  | not => simpa [encode, regField, regBits, BitVec.extractLsb'_or] using InRow.not hrow
  | ldi => simpa [encode, regField, regBits, BitVec.extractLsb'_or] using InRow.ldi hrow
  | sti => simpa [encode, regField, regBits, BitVec.extractLsb'_or] using InRow.sti hrow
  | lea => simpa [encode, regField, regBits, BitVec.extractLsb'_or] using InRow.lea hrow
  | rti => exact .rti hrow
  | res => exact .res hrow
  | br n z p off =>
    simpa [encode, getLsbD_placed, BitVec.extractLsb'_or, -BitVec.getLsbD_eq_getElem] using InRow.br hrow
  | jmp base =>
    have hbase : base ≠ 7 := by simpa [Instr.wellFormed] using hwf
    simpa [encode, encodeJmp, regField, regBits, BitVec.extractLsb'_or, decodeJmp_of_ne hbase] using InRow.jmp hrow
  | ret => exact .jmp hrow
  | trap v =>
    have hv : UnknownVector v := by simpa [Instr.wellFormed, UnknownVector] using hwf
    simpa [encode, encodeTrap, BitVec.extractLsb'_or, decodeTrap_of_unknown hv] using InRow.trap hrow
  | getc | out | puts | inEcho | putsp | halt => exact .trap hrow

/-- Settles O2: the encoding stands in the row of the instruction, and the row fixes what it decodes to. -/
theorem decodeOfEncode : Obligations.DecodeOfEncode :=
  fun _ hwf => (inRow_encode hwf).decode_eq

/-! ## Decoding, then encoding -/

/-- What the decoder gives is well-formed: it spells JMP R7 and the known vectors by their names. -/
theorem InRow.wellFormed {w : Word} {i : Instr} (hi : InRow w i) : i.wellFormed = true := by
  cases hi with
  | jmp =>
    unfold decodeJmp
    split
    next => rfl
    next hbase => simpa [Instr.wellFormed] using hbase
  | trap =>
    unfold decodeTrap
    split
    next r _ => cases r <;> rfl
    next hnone => simpa [Instr.wellFormed, UnknownVector] using (routineOfVector_eq_none_iff _).1 hnone
  | br | addReg | addImm | ld | st | jsrr | jsr | andReg | andImm | ldr | str | rti | not | ldi | sti | res | lea => rfl

theorem encode_decodeJmp (base : Reg) : encode (decodeJmp base) = encodeJmp base := by
  unfold decodeJmp
  split
  next h => rw [h]; rfl
  next => rfl

theorem encode_instrOfRoutine (r : Routine) : encode (instrOfRoutine r) = encodeTrap (vectorOfRoutine r) := by
  cases r <;> rfl

theorem encode_decodeTrap (v : BitVec 8) : encode (decodeTrap v) = encodeTrap v := by
  unfold decodeTrap
  split
  next r hr => rw [encode_instrOfRoutine, vectorOfRoutine_of_routineOfVector hr]
  next => rfl

/-- The bits read from a word are its row's mask and its fields', so the encoding is the word with the other bits 0. -/
theorem InRow.encode_eq {w : Word} {i : Instr} (hi : InRow w i) : encode i = w &&& readBits w := by
  cases hi with
  | addReg h | andReg h =>
    have hread : readBits w = 0xFFE7#16 := by simp [readBits, h]
    rw [hread, encode, ← h]
    simp only [regBits_regField, and_or_placed_extractLsb']
    rfl
  | not h =>
    have hread : readBits w = 0xFFC0#16 := by simp [readBits, h, and_ne_of_clash h]
    rw [hread, encode, ← h]
    simp only [regBits_regField, and_or_placed_extractLsb']
    rfl
  | jmp h =>
    have hread : readBits w = 0xF1C0#16 := by simp [readBits, h, and_ne_of_clash h]
    rw [hread, encode_decodeJmp, encodeJmp, ← h, regBits_regField, and_or_placed_extractLsb']
    rfl
  | jsrr h =>
    have hread : readBits w = 0xF9C0#16 := by simp [readBits, h, and_ne_of_clash h]
    rw [hread, encode, ← h, regBits_regField, and_or_placed_extractLsb']
    rfl
  | trap h =>
    have hread : readBits w = 0xF0FF#16 := by simp [readBits, h, and_ne_of_clash h]
    rw [hread, encode_decodeTrap, encodeTrap, ← h, and_or_placed_extractLsb']
    rfl
  | res h | rti h =>
    have hread : readBits w = 0xF000#16 := by simp [readBits, h, and_ne_of_clash h]
    rw [hread, h, encode]
  | br h | addImm h | ld h | st h | jsr h | andImm h | ldr h | str h | ldi h | sti h | lea h =>
    have hread : readBits w = 0xFFFF#16 := by simp [readBits, and_ne_of_clash h]
    rw [hread, encode, ← h]
    simp only [ofBool_getLsbD, regBits_regField, and_or_placed_extractLsb']
    rfl

/-- Settles O3: the encoding of what a word decodes to is the word with the ignored bits 0, so O2 says what that decodes to. -/
theorem encodeOfDecodeClearsIgnoredBits : Obligations.EncodeOfDecodeClearsIgnoredBits := by
  intro w
  have hwf := (inRow_decode w).wellFormed
  have hencode := (inRow_decode w).encode_eq
  refine ⟨?_, hwf, hencode⟩
  rw [← hencode]
  exact decodeOfEncode _ hwf

/-! ## One row for each word -/

theorem rowOf_mem_opcodeRows (i : Instr) : rowOf i ∈ opcodeRows := by
  cases i <;> simp [rowOf, opcodeRows]

/-- A word in the row of an instruction has that row's match; RET and the routine names share the rows of JMP and TRAP (R85). -/
theorem InRow.matches_rowOf {w : Word} {i : Instr} (hi : InRow w i) : w &&& (rowOf i).1 = (rowOf i).2 := by
  cases hi with
  | jmp h =>
    unfold decodeJmp
    split <;> exact h
  | trap h =>
    unfold decodeTrap
    split
    next r _ => cases r <;> exact h
    next => exact h
  | br h | addReg h | addImm h | ld h | st h | jsrr h | jsr h | andReg h | andImm h | ldr h | str h | rti h | not h | ldi h | sti h
  | res h | lea h => exact h

/-- Any two rows differ at a bit both their masks select (R79). -/
theorem opcodeRows_pairwise_clash : opcodeRows.Pairwise (fun r r' => r.2 &&& r'.1 ≠ r'.2 &&& r.1) := by
  decide

/-- No word matches two rows. -/
theorem row_unique {w : Word} {r r' : Word × Word} (hr : r ∈ opcodeRows) (hr' : r' ∈ opcodeRows) (h : w &&& r.1 = r.2)
    (h' : w &&& r'.1 = r'.2) : r = r' := by
  by_contra hne
  have hsymm : Std.Symm fun r r' : Word × Word => r.2 &&& r'.1 ≠ r'.2 &&& r.1 := ⟨fun _ _ => Ne.symm⟩
  exact and_ne_of_clash h (opcodeRows_pairwise_clash.forall hr hr' hne) h'

/-- Settles O4: the word matches the row of what it decodes to, and no word matches two rows. -/
theorem everyWordMatchesOneRow : Obligations.EveryWordMatchesOneRow := by
  intro w
  have hmem := rowOf_mem_opcodeRows (decode w)
  have hmatch := (inRow_decode w).matches_rowOf
  refine ⟨hmem, fun row hrow => ⟨fun h => row_unique hrow hmem h hmatch, ?_⟩⟩
  rintro rfl
  exact hmatch

end Sys2Proof
end

section
/-! PROOFS. The sequencer: the flag unit, the guard, the fetch, and when a step exists (spec/40_sequencer.md R91, R96 to R105). -/

namespace Sys2Proof.Machine

open Sys2Proof.Claims

/-! ## The flag unit -/

/-- The flag word of the classification is R91's, with the numbers of R27. -/
theorem classify_word (v : Word) : (classify v).word = flagOf v := by
  unfold classify flagOf
  split
  next => rfl
  next => split <;> rfl

/-- Settles O6: COND is the classification's flag word, and every other field is that of the state before. -/
theorem setccClassifies : Obligations.SetccClassifies := fun s v =>
  ⟨(s.setcc_cond v).trans (classify_word v), fun r _ => s.setcc_reg v r, s.setcc_pc v, fun a => by rw [s.setcc_mem v],
    ⟨s.setcc_runState v, s.setcc_fault v⟩, ⟨s.setcc_trace v, s.setcc_input v, s.setcc_activity v⟩, s.setcc_ir v, s.setcc_params v⟩

/-! ## The guard and the fetch -/

/-- Settles O39: the fetched state is the one the statement writes out (R100, R101). -/
theorem stepRunsDecodedInstruction : Obligations.StepRunsDecodedInstruction :=
  fun _ hfetch => step_of_fetches hfetch

/-- A step between instructions at which the guard fires halts (40_sequencer.md R98, R99). -/
theorem step_of_guard {s : State} (hrun : s.runState = .running) (hidle : s.activity = .idle) (hguard : s.guardFires = true) :
    step s = .next s.halt := by
  simp [step, hrun, hidle, hguard]

/-- Settles O40: at PC = 0xFFFF the guard fires exactly under AT_FFFF, and otherwise the fetch wraps PC to 0x0000. -/
theorem topGuardHaltsBeforeFetch : Obligations.TopGuardHaltsBeforeFetch := by
  refine fun s hrun hidle hpc => ⟨fun htop => ?_, fun htop => ?_⟩
  · exact step_of_guard hrun hidle (s.guardFires_iff.2 ⟨htop, hpc⟩)
  · have hfetch : Fetches s := ⟨hrun, hidle, fun hfires => by simp [htop] at hfires⟩
    have hwrap : s.pc + 1#16 = 0x0000#16 := by rw [hpc]; rfl
    rw [stepRunsDecodedInstruction s hfetch, hwrap, hpc]

/-! ## When a step exists -/

/-- Settles O41: a step that gives a next state is one of a RUNNING block. -/
theorem stoppedBlockHasNoStep : Obligations.StoppedBlockHasNoStep := by
  intro s hstop t hstep
  obtain ⟨hrun, -⟩ := step_cases hstep
  rw [hrun] at hstop
  rcases hstop with h | h <;> cases h

/-- Settles O42: every instruction has an effect, so a RUNNING block steps by its guard, by the fetched instruction, or by going on
inside its routine. -/
theorem runningBlockAlwaysSteps : Obligations.RunningBlockAlwaysSteps := by
  have hexec : ∀ (i : Instr) (s : State), ∃ t, exec i s = .next t := fun i s => (exec_effect i s).imp fun _ h => h.1
  refine ⟨hexec, fun s hrun => ?_⟩
  by_cases hidle : s.activity = .idle
  · cases hguard : s.guardFires with
    | true => exact ⟨_, step_of_guard hrun hidle hguard⟩
    | false =>
      obtain ⟨u, hu⟩ := hexec (decode s.fetch.ir) s.fetch
      exact ⟨u.retire, by rw [step_of_fetch hrun hidle hguard, hu, onNext_next]⟩
  · exact ⟨_, step_of_routine hrun hidle⟩

end Sys2Proof.Machine
end

section
/-! PROOFS. The operate instructions: the row fixes what a word decodes to, and each instruction is one destination write
(spec/41_operate.md R110 to R114). -/

namespace Sys2Proof.Machine

open Sys2Proof.Claims

/-! ## A destination write -/

/-- A destination write changes the register and COND, by the classification of what it wrote, and leaves every other field. -/
theorem State.writesDest_writeDest (s : State) (dr : Reg) (v : Word) : WritesDest s (s.writeDest dr v) dr v := by
  have hdest : (s.writeDest dr v).reg dr = v := by simp
  have hregs : SameRegs s (s.writeDest dr v) [dr] := fun r hr => by
    rw [State.writeDest_reg, if_neg (List.mem_singleton.not.1 hr)]
  have hcond : (s.writeDest dr v).cond = flagOf v := (s.writeDest_cond dr v).trans (classify_word v)
  have hmem : SameMem s (s.writeDest dr v) := fun a => by rw [State.writeDest_mem]
  exact ⟨hdest, hregs, hcond, s.writeDest_pc dr v, hmem, ⟨s.writeDest_runState dr v, s.writeDest_fault dr v⟩,
    ⟨s.writeDest_trace dr v, s.writeDest_input dr v, s.writeDest_activity dr v⟩, s.writeDest_ir dr v, s.writeDest_params dr v⟩

/-- An instruction that is one destination write completes with it. -/
theorem exists_writesDest {i : Instr} {s : State} {dr : Reg} {v : Word} (h : exec i s = .next (s.writeDest dr v)) :
    ∃ t, exec i s = .next t ∧ WritesDest s t dr v :=
  ⟨s.writeDest dr v, h, s.writesDest_writeDest dr v⟩

/-! ## What each instruction writes -/

/-- The ALU's complement is R12's, the exclusive or with 0xFFFF. -/
theorem aluNot_eq_xor (a : Word) : aluNot a = a ^^^ 0xFFFF#16 := BitVec.xor_allOnes.symm

theorem exec_addReg (dr sr1 sr2 : Reg) (s : State) :
    exec (.addReg dr sr1 sr2) s = .next (s.writeDest dr (s.reg sr1 + s.reg sr2)) := rfl

theorem exec_addImm (dr sr1 : Reg) (imm : BitVec 5) (s : State) :
    exec (.addImm dr sr1 imm) s = .next (s.writeDest dr (s.reg sr1 + imm.signExtend 16)) := rfl

theorem exec_andReg (dr sr1 sr2 : Reg) (s : State) :
    exec (.andReg dr sr1 sr2) s = .next (s.writeDest dr (s.reg sr1 &&& s.reg sr2)) := rfl

theorem exec_andImm (dr sr1 : Reg) (imm : BitVec 5) (s : State) :
    exec (.andImm dr sr1 imm) s = .next (s.writeDest dr (s.reg sr1 &&& imm.signExtend 16)) := rfl

theorem exec_not (dr sr : Reg) (s : State) :
    exec (.not dr sr) s = .next (s.writeDest dr (s.reg sr ^^^ 0xFFFF#16)) := by
  rw [← aluNot_eq_xor]
  rfl

/-! ## The statements -/

/-- Settles O7: one destination write of the sum, its sources read before the write, so DR may be a source. -/
theorem addRegisterForm : Obligations.AddRegisterForm :=
  ⟨fun _ hrow => (InRow.addReg hrow).decode_eq, fun dr sr1 sr2 s => exists_writesDest (exec_addReg dr sr1 sr2 s)⟩

/-- Settles O8: one destination write of the sum with the sign-extended immediate. -/
theorem addImmediateForm : Obligations.AddImmediateForm :=
  ⟨fun _ hrow => (InRow.addImm hrow).decode_eq, fun dr sr1 imm s => exists_writesDest (exec_addImm dr sr1 imm s)⟩

/-- Settles O9: one destination write of the bitwise AND, its sources read before the write. -/
theorem andRegisterForm : Obligations.AndRegisterForm :=
  ⟨fun _ hrow => (InRow.andReg hrow).decode_eq, fun dr sr1 sr2 s => exists_writesDest (exec_andReg dr sr1 sr2 s)⟩

/-- Settles O10: one destination write of the AND with the sign-extended immediate. -/
theorem andImmediateForm : Obligations.AndImmediateForm :=
  ⟨fun _ hrow => (InRow.andImm hrow).decode_eq, fun dr sr1 imm s => exists_writesDest (exec_andImm dr sr1 imm s)⟩

/-- Settles O11: one destination write of the complement. -/
theorem notComplements : Obligations.NotComplements :=
  ⟨fun _ hrow => (InRow.not hrow).decode_eq, fun dr sr s => exists_writesDest (exec_not dr sr s)⟩

end Sys2Proof.Machine
end

section
/-! PROOFS. Control transfer: the row fixes what a word decodes to, and each instruction is one write of PC, in JSR and JSRR after the
link (spec/42_control.md R115 to R118). -/

namespace Sys2Proof.Machine

open Sys2Proof.Claims

/-! ## A write of PC, alone and after the link -/

/-- A write of PC alone leaves every register and every other field. -/
theorem State.transfers_jumpTo (s : State) (target : Word) : Transfers s (s.jumpTo target) target none :=
  ⟨s.jumpTo_pc target, nofun, fun _ r _ => s.jumpTo_reg target r, s.jumpTo_cond target, fun a => by rw [s.jumpTo_mem target],
    ⟨s.jumpTo_runState target, s.jumpTo_fault target⟩,
    ⟨s.jumpTo_trace target, s.jumpTo_input target, s.jumpTo_activity target⟩, s.jumpTo_ir target, s.jumpTo_params target⟩

/-- The link write leaves PC and puts it into R7, so a write of PC after it is the transfer with the link. -/
theorem State.transfers_link_jumpTo (s : State) (target : Word) : Transfers s (s.link.jumpTo target) target (some s.pc) := by
  obtain ⟨hpc, -, hregs, hcond, hmem, hrun, hio, hrest⟩ := s.link.transfers_jumpTo target
  have hlink : (s.link.jumpTo target).reg 7 = s.pc := (hregs rfl 7 List.not_mem_nil).trans (s.link_reg 7)
  have hothers : SameRegs s (s.link.jumpTo target) [7] := fun r hr => by
    rw [State.jumpTo_reg, State.link_reg, if_neg (List.mem_singleton.not.1 hr)]
  exact ⟨hpc, fun _ hv => ⟨hlink.trans (Option.some.inj hv), hothers⟩, nofun, hcond, hmem, hrun, hio, hrest⟩

/-- An instruction that is one write of PC completes with it. -/
theorem exists_transfers {i : Instr} {s : State} {target : Word} (h : exec i s = .next (s.jumpTo target)) :
    ∃ t, exec i s = .next t ∧ Transfers s t target none :=
  ⟨s.jumpTo target, h, s.transfers_jumpTo target⟩

/-- An instruction that is the link write and then one write of PC completes with them. -/
theorem exists_transfers_link {i : Instr} {s : State} {target : Word} (h : exec i s = .next (s.link.jumpTo target)) :
    ∃ t, exec i s = .next t ∧ Transfers s t target (some s.pc) :=
  ⟨s.link.jumpTo target, h, s.transfers_link_jumpTo target⟩

/-! ## BR's test -/

/-- BR's three bits are the number `n*4 + z*2 + p` (30_encoding.md R67). -/
theorem condMask_eq_sum (n z p : Bool) :
    condMask n z p = (if n then 4#16 else 0#16) + (if z then 2#16 else 0#16) + (if p then 1#16 else 0#16) := by
  revert n z p
  decide

theorem State.branchTaken_iff (s : State) (n z p : Bool) :
    s.branchTaken n z p = true ↔ condMask n z p &&& s.cond ≠ 0#16 := bne_iff_ne

/-! ## Where each instruction goes -/

theorem exec_br (n z p : Bool) (off : BitVec 9) (s : State) :
    exec (.br n z p off) s =
      .next (s.jumpTo (if condMask n z p &&& s.cond ≠ 0#16 then s.pc + off.signExtend 16 else s.pc)) := by
  simp only [← State.branchTaken_iff]
  exact execBr_eq_jumpTo n z p off s

theorem exec_jmp (base : Reg) (s : State) : exec (.jmp base) s = .next (s.jumpTo (s.reg base)) := rfl

theorem exec_ret (s : State) : exec .ret s = .next (s.jumpTo (s.reg 7)) := rfl

theorem exec_jsr (off : BitVec 11) (s : State) :
    exec (.jsr off) s = .next (s.link.jumpTo (s.pc + off.signExtend 16)) := rfl

/-- The base is read after the link write, so R7 as base reads the return address (R118). -/
theorem exec_jsrr (base : Reg) (s : State) :
    exec (.jsrr base) s = .next (s.link.jumpTo (if base = 7 then s.pc else s.reg base)) := by
  rw [← State.link_reg]
  rfl

/-! ## The statements -/

/-- Settles O12: one write of PC, with the target or with the value PC has. -/
theorem branchTestsConditionBits : Obligations.BranchTestsConditionBits := by
  refine ⟨fun _ hrow => (InRow.br hrow).decode_eq, fun n z p off s => ?_⟩
  rw [← condMask_eq_sum]
  exact exists_transfers (exec_br n z p off s)

/-- Settles O13: one write of PC with the base register, and a JMP word decodes by its base, to RET where that is R7. -/
theorem jumpThroughRegister : Obligations.JumpThroughRegister :=
  ⟨fun _ hrow => (InRow.jmp hrow).decode_eq, fun base s => exists_transfers (exec_jmp base s),
    fun s => exists_transfers (exec_ret s)⟩

/-- Settles O14: the link write and then one write of PC, both from the post-increment PC. -/
theorem jsrLinksAndBranches : Obligations.JsrLinksAndBranches :=
  ⟨fun _ hrow => (InRow.jsr hrow).decode_eq, fun off s => exists_transfers_link (exec_jsr off s)⟩

/-- Settles O15: the link write and then one write of PC with the base register as the link left it. -/
theorem jsrrReadsBaseAfterLink : Obligations.JsrrReadsBaseAfterLink :=
  ⟨fun _ hrow => (InRow.jsrr hrow).decode_eq, fun base s => exists_transfers_link (exec_jsrr base s)⟩

end Sys2Proof.Machine
end

section
/-! PROOFS. Loads, LEA and stores: the row fixes what a word decodes to, a load and LEA are one destination write and a store is one
memory write, and a load reads back what a store wrote (spec/43_load_store.md R121 to R128). -/

namespace Sys2Proof.Machine

open Sys2Proof.Claims

/-! ## A memory write -/

/-- A memory write changes the word at its address and leaves every other word and every other field. -/
theorem State.stores_storeWord (s : State) (ea v : Word) : Stores s (s.storeWord ea v) ea v := by
  obtain ⟨hword, hothers⟩ := s.storeWord_read ea v
  exact ⟨hword, hothers, fun r _ => s.storeWord_reg ea v r, s.storeWord_cond ea v, s.storeWord_pc ea v,
    ⟨s.storeWord_runState ea v, s.storeWord_fault ea v⟩,
    ⟨s.storeWord_trace ea v, s.storeWord_input ea v, s.storeWord_activity ea v⟩, s.storeWord_ir ea v, s.storeWord_params ea v⟩

/-- A store completes with the memory write at its computed address. -/
theorem exists_stores {i : Instr} {s : State} {ea : Word} {sr : Reg} (hi : storeOf s i = some (ea, sr)) :
    ∃ t, exec i s = .next t ∧ Stores s t ea (s.reg sr) :=
  ⟨s.storeWord ea (s.reg sr), exec_of_storeOf hi, s.stores_storeWord ea (s.reg sr)⟩

/-! ## The computed addresses -/

theorem State.pcRelative_eq (s : State) {n : Nat} (off : BitVec n) : s.pcRelative off = s.pc + off.signExtend 16 := rfl

theorem State.baseOffset_eq (s : State) (base : Reg) (off : BitVec 6) :
    s.baseOffset base off = s.reg base + off.signExtend 16 := rfl

theorem State.pointerAt_eq (s : State) (off : BitVec 9) : s.pointerAt off = s.mem.read (s.pc + off.signExtend 16) := rfl

/-! ## What a load and LEA write -/

/-- A load makes one destination write of the word at its computed address (43_load_store.md R121 to R123). -/
theorem exec_of_loadOf {s : State} {i : Instr} {ea : Word} {dr : Reg} (hi : loadOf s i = some (ea, dr)) :
    exec i s = .next (s.writeDest dr (s.mem.read ea)) := by
  cases i with
  | ld | ldi | ldr => cases hi; rfl
  | br | addReg | addImm | st | jsrr | jsr | andReg | andImm | str | rti | not | sti | jmp | res | lea | trap | ret | getc | out
  | puts | inEcho | putsp | halt => cases hi

theorem exec_lea (dr : Reg) (off : BitVec 9) (s : State) :
    exec (.lea dr off) s = .next (s.writeDest dr (s.pc + off.signExtend 16)) := rfl

/-! ## The statements -/

/-- Settles O23: the store is one memory write and the load one destination write of the word it finds at the same address. -/
theorem loadReturnsWhatStoreWrote : Obligations.LoadReturnsWhatStoreWrote := by
  intro i j s t u ea sr dr hstore hexec hmem hload
  have ht : s.storeWord ea (s.reg sr) = t := Host.Outcome.next.inj ((exec_of_storeOf hstore).symm.trans hexec)
  have hread : u.mem.read ea = s.reg sr := by
    rw [hmem, ← ht]
    exact (s.storeWord_read ea (s.reg sr)).1
  exact ⟨_, exec_of_loadOf hload, by rw [State.writeDest_reg, if_pos rfl, hread]⟩

/-- Settles O16: one destination write of the word at the PC-relative address. -/
theorem ldLoadsPcRelative : Obligations.LdLoadsPcRelative := by
  refine ⟨fun _ hrow => (InRow.ld hrow).decode_eq, fun dr off s => ?_⟩
  rw [← s.pcRelative_eq off]
  exact exists_writesDest (exec_of_loadOf rfl)

/-- Settles O17: one destination write of the word the pointer names. -/
theorem ldiLoadsThroughPointer : Obligations.LdiLoadsThroughPointer := by
  refine ⟨fun _ hrow => (InRow.ldi hrow).decode_eq, fun dr off s => ?_⟩
  rw [← s.pointerAt_eq off]
  exact exists_writesDest (exec_of_loadOf rfl)

/-- Settles O18: one destination write of the word at the base's offset, the base read before the write, so DR may be the base. -/
theorem ldrLoadsBasePlusOffset : Obligations.LdrLoadsBasePlusOffset := by
  refine ⟨fun _ hrow => (InRow.ldr hrow).decode_eq, fun dr base off s => ?_⟩
  rw [← s.baseOffset_eq base off]
  exact exists_writesDest (exec_of_loadOf rfl)

/-- Settles O19: one destination write of the PC-relative address itself. -/
theorem leaLoadsAddressAndFlags : Obligations.LeaLoadsAddressAndFlags :=
  ⟨fun _ hrow => (InRow.lea hrow).decode_eq, fun dr off s => exists_writesDest (exec_lea dr off s)⟩

/-- Settles O20: one memory write at the PC-relative address. -/
theorem stStoresPcRelative : Obligations.StStoresPcRelative :=
  ⟨fun _ hrow => (InRow.st hrow).decode_eq, fun _ off s => ⟨s.pcRelative_eq off, exists_stores rfl⟩⟩

/-- Settles O21: one memory write where the pointer says, the pointer read before the write, so it may name its own location. -/
theorem stiStoresThroughPointer : Obligations.StiStoresThroughPointer :=
  ⟨fun _ hrow => (InRow.sti hrow).decode_eq, fun _ off s => ⟨s.pointerAt_eq off, exists_stores rfl⟩⟩

/-- Settles O22: one memory write at the base's offset, both registers read before it, so SR may be the base. -/
theorem strStoresBasePlusOffset : Obligations.StrStoresBasePlusOffset :=
  ⟨fun _ hrow => (InRow.str hrow).decode_eq, fun _ base off s => ⟨s.baseOffset_eq base off, exists_stores rfl⟩⟩

end Sys2Proof.Machine
end

section
/-! PROOFS. TRAP: the word selects a routine by its low eight bits, the trap entry links, and every routine keeps the frame
(spec/44_trap.md R129, R130, R132, R136, R137). -/

namespace Sys2Proof.Machine

open Sys2Proof.Claims

/-! ## TRAP words -/

/-- A word that agrees with a routine's encoding in the bits a TRAP word is read from decodes to the routine's instruction. -/
theorem decode_of_routineWord {w : Word} {r : Routine} (h : w &&& 0xF0FF#16 = encode (instrOfRoutine r)) :
    decode w = instrOfRoutine r := by
  have hrow : w &&& 0xF000#16 = 0xF000#16 := by
    calc w &&& 0xF000#16 = (w &&& 0xF0FF#16) &&& 0xF000#16 := by rw [BitVec.and_assoc]; rfl
      _ = 0xF000#16 := by rw [h]; cases r <;> rfl
  have hread : readBits w = 0xF0FF#16 := by simp [readBits, hrow, and_ne_of_clash hrow]
  have hwf : (instrOfRoutine r).wellFormed = true := by cases r <;> rfl
  rw [← (encodeOfDecodeClearsIgnoredBits w).1, hread, h, decodeOfEncode _ hwf]

/-! ## What TRAP runs -/

/-- The instruction of a routine runs it after the trap entry. -/
theorem exec_instrOfRoutine (r : Routine) (s : State) : exec (instrOfRoutine r) s = .next (s.trapEntry.runRoutine r) := by
  cases r <;> rfl

theorem exec_trap_of_routine {v : BitVec 8} {r : Routine} (h : routineOfVector v = some r) (s : State) :
    exec (.trap v) s = .next (s.trapEntry.runRoutine r) := by
  simp only [exec, execTrap, h]

theorem exec_trap_of_unknown {v : BitVec 8} (h : UnknownVector v) (s : State) :
    exec (.trap v) s = .next (s.trapEntry.raiseFault .trapUnknown) := by
  simp only [exec, execTrap, (routineOfVector_eq_none_iff v).2 h]

/-- A routine's own spelling runs as the TRAP of its vector does. -/
theorem exec_decodeTrap (v : BitVec 8) (s : State) : exec (decodeTrap v) s = exec (.trap v) s := by
  unfold decodeTrap
  split
  next r hr => rw [exec_instrOfRoutine, exec_trap_of_routine hr]
  next => rfl

/-! ## The frame -/

/-- A state with the registers of the trap entry has R7 alone written. -/
theorem trapFrame_of_regs_eq {s t : State} (hregs : t.regs = s.trapEntry.regs) (hcond : t.cond = s.cond) (hpc : t.pc = s.pc)
    (hmem : t.mem = s.mem) (hir : t.ir = s.ir) (hparams : t.params = s.params) : TrapFrame s t [] := by
  have hreg : ∀ q, t.reg q = if q = 7 then s.pc else s.reg q := fun q => by
    rw [← State.trapEntry_reg, State.reg, hregs, State.reg]
  have hothers : SameRegs s t [7] := fun q hq => by rw [hreg, if_neg (List.mem_singleton.not.1 hq)]
  exact ⟨hreg 7, hothers, hcond, hpc, fun a => by rw [hmem], hir, hparams⟩

/-- A routine keeps the frame of the registers its instruction may write besides R7. -/
theorem trapFrame_runRoutine (s : State) {r : Routine} {written : List Reg}
    (hwritten : writtenRegs (instrOfRoutine r) = 7 :: written) : TrapFrame s (s.trapEntry.runRoutine r) written := by
  obtain ⟨hpc, hcond, hir, hmem, -, -, hparams, -, -, hregs⟩ := s.trapEntry.runRoutine_frame r
  have hlink : (s.trapEntry.runRoutine r).reg 7 = s.pc := (hregs 7 (.inl (by decide))).trans (s.trapEntry_reg 7)
  exact ⟨hlink, hwritten ▸ sameRegs_runRoutine s r, hcond, hpc, fun a => by rw [hmem, s.trapEntry_mem], hir, hparams⟩

/-- Every routine but HALT leaves the run state and the fault record. -/
theorem sameRun_runRoutine (s : State) {r : Routine} (hr : r ≠ .halt) : SameRun s (s.trapEntry.runRoutine r) := by
  obtain ⟨-, -, -, -, hrun, hfault, -⟩ := s.trapEntry.runRoutine_frame r
  exact ⟨hrun.trans (if_neg hr), hfault⟩

/-! ## The statements -/

/-- Settles O24: the word is decoded by its low eight bits alone, and its vector selects a routine, which keeps the frame, or is the
fault raised after the trap entry. -/
theorem trapSelectsRoutine : Obligations.TrapSelectsRoutine := by
  refine ⟨fun w s hrow => ?_, fun s => ⟨rfl, rfl, rfl, rfl, rfl, rfl⟩, fun v s => ?_⟩
  · rw [(InRow.trap hrow).decode_eq, exec_decodeTrap]
  · have hwritten : writtenRegs (.trap v) = 7 :: (if v = 0x20#8 ∨ v = 0x23#8 then [0] else []) :=
      (apply_ite (List.cons 7) _ _ _).symm
    cases hr : routineOfVector v with
    | some r =>
      refine ⟨_, exec_trap_of_routine hr s, trapFrame_runRoutine s ((writtenRegs_trap_of_routine hr).symm.trans hwritten), ?_⟩
      intro hunknown
      rw [(routineOfVector_eq_none_iff v).2 hunknown] at hr
      cases hr
    | none =>
      rw [writtenRegs_trap_of_unknown hr] at hwritten
      rw [← List.tail_eq_of_cons_eq hwritten]
      exact ⟨_, exec_trap_of_unknown ((routineOfVector_eq_none_iff v).1 hr) s,
        trapFrame_of_regs_eq rfl rfl rfl rfl rfl rfl, fun _ => ⟨rfl, rfl⟩⟩

/-- Settles O25: the fault is raised on the state after the trap entry, so R7 alone differs outside the record. -/
theorem unknownVectorFaults : Obligations.UnknownVectorFaults := by
  refine ⟨fun w hrow hv => (InRow.trap hrow).decode_eq.trans (decodeTrap_of_unknown hv), fun v s hv => ?_⟩
  obtain ⟨hlink, hregs, hcond, hpc, hmem, hrest⟩ : TrapFrame s (s.trapEntry.raiseFault .trapUnknown) [] :=
    trapFrame_of_regs_eq rfl rfl rfl rfl rfl rfl
  exact ⟨_, exec_trap_of_unknown hv s, hlink, rfl, rfl, rfl, rfl, hregs, hcond, hpc, hmem, ⟨rfl, rfl, rfl⟩, hrest⟩

/-- Settles O27: OUT is one event after the trap entry, which leaves R0. -/
theorem outWritesLowByte : Obligations.OutWritesLowByte := by
  refine ⟨fun _ hw => decode_of_routineWord (r := .out) hw, fun s => ?_⟩
  have hbyte : lowByte (s.trapEntry.reg 0) = (s.reg 0).extractLsb' 0 8 := by rw [State.trapEntry_reg]; rfl
  have htrace : (s.trapEntry.runRoutine .out).trace = s.trace ++ [.write ((s.reg 0).extractLsb' 0 8)] := by
    rw [← hbyte]; rfl
  exact ⟨_, exec_instrOfRoutine .out s, trapFrame_runRoutine s rfl, sameRun_runRoutine s (by decide), rfl, rfl, htrace⟩

/-- Settles O31: HALT is one event after the trap entry and the run state HALTED, in which no step exists. -/
theorem haltFlushesAndStops : Obligations.HaltFlushesAndStops := by
  refine ⟨fun _ hw => decode_of_routineWord (r := .halt) hw, fun s => ?_⟩
  have hhalted : (s.trapEntry.runRoutine .halt).retire.runState = .halted := State.retire_runState _
  exact ⟨_, exec_instrOfRoutine .halt s, trapFrame_runRoutine s rfl, rfl, rfl, rfl, rfl, rfl,
    stoppedBlockHasNoStep _ (.inl hhalted)⟩

end Sys2Proof.Machine
end

section
/-! PROOFS. GETC and IN: a ReadByte with a byte supplied completes the routine, and one without keeps the block inside it
(spec/44_trap.md R131, R134, R138). -/

namespace Sys2Proof.Machine

open Sys2Proof.Claims

/-! ## ReadByte -/

/-- A ReadByte with a byte supplied takes it, puts it into R0 and ends the routine with the routine's events. -/
theorem State.readByteFor_answered {s : State} (r : ReadRoutine) {b : Byte} {rest : List Byte} (h : s.input = b :: rest) :
    (s.readByteFor r).reg 0 = b.setWidth 16 ∧ (s.readByteFor r).input = rest ∧ (s.readByteFor r).activity = .idle ∧
      (s.readByteFor r).trace = s.trace ++ readEvents r b := by
  rw [s.readByteFor_some r h]
  cases r with
  | getc => simp [State.deliverByte, zextByte, readEvents]
  | inEcho => simp [State.deliverByte, zextByte, readEvents]

/-- A block that waits for a byte goes on with its ReadByte. -/
theorem State.resume_of_awaiting {s : State} {r : ReadRoutine} (h : s.activity = .awaitingByte r) :
    s.resume = s.readByteFor r := by
  simp only [State.resume, h]

/-- Waiting again changes nothing. -/
theorem State.await_eq_self {s : State} {r : ReadRoutine} (h : s.activity = .awaitingByte r) : s.await r = s := by
  rw [State.await, ← h]

/-- The step of a TRAP is not over while the block is inside its routine (44_trap.md R138). -/
theorem State.retire_of_ne_idle {s : State} (h : s.activity ≠ .idle) : s.retire = s := by
  unfold State.retire
  split
  next hidle => exact absurd hidle h
  next => rfl
  next => rfl

/-! ## The statements -/

/-- Settles O26: GETC is the ReadByte after the trap entry. -/
theorem getcReadsOneByte : Obligations.GetcReadsOneByte := by
  refine ⟨fun _ hw => decode_of_routineWord (r := .getc) hw, fun s b rest hin => ?_⟩
  obtain ⟨hreg, hinput, hact, htrace⟩ := State.readByteFor_answered (s := s.trapEntry) .getc hin
  exact ⟨_, exec_instrOfRoutine .getc s, hreg, trapFrame_runRoutine s rfl, sameRun_runRoutine s (by decide), hinput, htrace, hact⟩

/-- Settles O29: IN is the prompt and then the ReadByte, whose events are the read and the echo. -/
theorem inPromptsReadsAndEchoes : Obligations.InPromptsReadsAndEchoes := by
  refine ⟨fun _ hw => decode_of_routineWord (r := .inEcho) hw, fun s b rest hin => ?_⟩
  obtain ⟨hreg, hinput, hact, htrace⟩ :=
    State.readByteFor_answered (s := s.trapEntry.writeBytes s.params.inPrompt) .inEcho hin
  exact ⟨_, exec_instrOfRoutine .inEcho s, hreg, trapFrame_runRoutine s rfl, sameRun_runRoutine s (by decide), hinput, hact,
    htrace⟩

/-- Settles O32: without a byte the routine ends in waiting and every step waits again; with one the step is the answered ReadByte. -/
theorem readWaitsForHost : Obligations.ReadWaitsForHost := by
  refine ⟨fun s hin => ⟨?_, ?_⟩, fun s r hrun hact hin => ?_, fun s r b rest hrun hact hin => ?_⟩
  · have hexec : exec .getc s = .next (s.trapEntry.await .getc) :=
      congrArg _ (s.trapEntry.readByteFor_none .getc hin)
    exact ⟨_, hexec, rfl, trapFrame_of_regs_eq rfl rfl rfl rfl rfl rfl, ⟨rfl, rfl⟩, hin, rfl⟩
  · have hexec : exec .inEcho s = .next ((s.trapEntry.writeBytes s.params.inPrompt).await .inEcho) :=
      congrArg _ (State.readByteFor_none (s := s.trapEntry.writeBytes s.params.inPrompt) .inEcho hin)
    exact ⟨_, hexec, rfl, trapFrame_of_regs_eq rfl rfl rfl rfl rfl rfl, ⟨rfl, rfl⟩, hin, rfl⟩
  · have hinside : s.activity ≠ .idle := by simp [hact]
    rw [step_of_routine hrun hinside, State.resume_of_awaiting hact, s.readByteFor_none r hin, State.await_eq_self hact,
      State.retire_of_ne_idle hinside]
  · have hstep : step s = .next (s.readByteFor r).retire := by
      rw [step_of_routine hrun (by simp [hact]), State.resume_of_awaiting hact]
    obtain ⟨hreg, hinput, hidle, htrace⟩ := State.readByteFor_answered r hin
    obtain ⟨hpc, hcond, -, hmem, hrunState, hfault, hparams, -, -, hregs⟩ := s.readByteFor_frame r
    refine ⟨_, hstep, by simp [hidle], by simp [hinput], by simp [hreg], fun q hq => ?_, by simp [hpc], by simp [hcond],
      fun a => by simp [hmem], by simp [SameRun, hrunState, hfault], by simp [hparams], by simp [State.retire_ir, hidle], ?_⟩
    · rw [State.retire_reg, hregs q (List.mem_singleton.not.1 hq)]
    · rw [State.retire_trace, htrace]
      cases r <;> rfl

end Sys2Proof.Machine
end

section
/-! PROOFS. PUTS and PUTSP: a string with its terminator is written out, and one without keeps the block inside the routine
(spec/44_trap.md R133, R135, spec/40_sequencer.md R106). -/

namespace Sys2Proof.Machine

open Sys2Proof.Claims

/-! ## The bytes of a string -/

theorem stringText_puts (m : Memory) (a : Word) (k : Nat) : stringText .puts m a k = putsBytes m a k :=
  List.map_eq_flatMap.symm

theorem stringText_putsp (m : Memory) (a : Word) (k : Nat) : stringText .putsp m a k = putspBytes m a k := by
  have hword : ∀ w : Word, stringBytes .putsp w = lowByte w :: (if highByte w = 0#8 then [] else [highByte w]) := fun w =>
    (apply_ite (List.cons (lowByte w)) _ _ _).symm
  simp only [stringText, hword]
  rfl

/-- Every word of a string writes at least its low byte. -/
theorem stringBytes_length_pos (f : StringFormat) (w : Word) : 0 < (stringBytes f w).length := by
  cases f with
  | puts => exact Nat.one_pos
  | putsp => simp only [stringBytes]; split <;> simp

theorem le_length_stringText (f : StringFormat) (m : Memory) (a : Word) (k : Nat) : k ≤ (stringText f m a k).length := by
  induction k generalizing a with
  | zero => exact Nat.zero_le _
  | succ k ih =>
    have hhead := stringBytes_length_pos f (m.read a)
    have htail := ih (a + 1#16)
    rw [stringText_succ, List.length_append]
    omega

/-! ## The string loop after the trap entry -/

/-- PUTS runs its loop from the address in R0, which the trap entry leaves. -/
theorem exec_puts (s : State) : exec .puts s = .next (s.trapEntry.writeString .puts (s.reg 0)) := by
  have hreg : s.trapEntry.reg 0 = s.reg 0 := s.trapEntry_reg 0
  rw [← hreg]; rfl

/-- PUTSP runs its loop from the address in R0, which the trap entry leaves. -/
theorem exec_putsp (s : State) : exec .putsp s = .next (s.trapEntry.writeString .putsp (s.reg 0)) := by
  have hreg : s.trapEntry.reg 0 = s.reg 0 := s.trapEntry_reg 0
  rw [← hreg]; rfl

/-- The string loop adds no register to those the trap entry writes. -/
theorem trapFrame_writeString (s : State) (f : StringFormat) (a : Word) : TrapFrame s (s.trapEntry.writeString f a) [] :=
  trapFrame_of_regs_eq rfl rfl rfl rfl rfl rfl

/-- A terminated string is written out, and the routine is over. -/
theorem exists_of_stringAt {i : Instr} {s : State} {f : StringFormat} {a : Word} {k : Nat}
    (hexec : exec i s = .next (s.trapEntry.writeString f a)) (h : StringAt s.mem a k) :
    ∃ t, exec i s = .next t ∧ TrapFrame s t [] ∧ SameRun s t ∧ t.input = s.input ∧ t.activity = .idle ∧
      t.trace = s.trace ++ (stringText f s.mem a k).map .write := by
  obtain ⟨hk, hwords, hend⟩ := h
  have hdone := s.trapEntry.writeString_terminated f a k hk hwords hend
  exact ⟨_, hexec, trapFrame_writeString s f a, ⟨rfl, rfl⟩, rfl, by rw [hdone], by rw [hdone]; rfl⟩

/-- Without a 0x0000 word a lap of memory is written, and the block stands at the address the lap began at. -/
theorem exists_of_endless {i : Instr} {s : State} {f : StringFormat} {a : Word}
    (hexec : exec i s = .next (s.trapEntry.writeString f a)) (h : ∀ b, s.mem.read b ≠ 0x0000#16) :
    ∃ t, exec i s = .next t ∧ t.activity = .writingString f a ∧ TrapFrame s t [] ∧ SameRun s t ∧
      t.trace = s.trace ++ (stringText f s.mem a 65536).map .write := by
  have hlap := s.trapEntry.writeString_endless f a h
  exact ⟨_, hexec, by rw [hlap], trapFrame_writeString s f a, ⟨rfl, rfl⟩, by rw [hlap]; rfl⟩

/-- A block inside a string routine goes on with its loop. -/
theorem State.resume_of_writing {s : State} {f : StringFormat} {a : Word} (h : s.activity = .writingString f a) :
    s.resume = s.writeString f a := by
  simp only [State.resume, h]

/-! ## The statements -/

/-- Settles O28: PUTS is the string loop after the trap entry, and its bytes are the low bytes of the words. -/
theorem putsWritesString : Obligations.PutsWritesString := by
  refine ⟨fun _ hw => decode_of_routineWord (r := .puts) hw, fun s k hstring => ?_⟩
  rw [← stringText_puts]
  exact exists_of_stringAt (exec_puts s) hstring

/-- Settles O30: PUTSP is the string loop after the trap entry, and its bytes are both characters of each word. -/
theorem putspWritesPackedString : Obligations.PutspWritesPackedString := by
  refine ⟨fun _ hw => decode_of_routineWord (r := .putsp) hw, fun s k hstring => ?_⟩
  rw [← stringText_putsp]
  exact exists_of_stringAt (exec_putsp s) hstring

/-- Settles O33: a lap of memory leads back to the address it began at, and each of its words writes at least one byte. -/
theorem endlessStringNeverReturns : Obligations.EndlessStringNeverReturns := by
  refine ⟨fun s hmem => ?_, fun s f a hmem hrun hact => ?_⟩
  · rw [← stringText_puts, ← stringText_putsp]
    exact ⟨exists_of_endless (exec_puts s) hmem, exists_of_endless (exec_putsp s) hmem⟩
  · have hlap := s.writeString_endless f a hmem
    have hinside : (s.writeString f a).activity = .writingString f a := by rw [hlap]
    have hstep : step s = .next (s.writeString f a) := by
      rw [step_of_routine hrun (by simp [hact]), State.resume_of_writing hact, State.retire_of_ne_idle (by simp [hinside])]
    have htrace : s.trace.length + 65536 ≤ (s.writeString f a).trace.length := by
      rw [hlap, List.length_append, List.length_map]
      exact Nat.add_le_add_left (le_length_stringText f s.mem a 65536) _
    exact ⟨_, hstep, hinside, ⟨rfl, rfl⟩, fun _ => rfl, fun _ _ => rfl, rfl, rfl, htrace⟩

end Sys2Proof.Machine
end

section
/-! PROOFS. The I/O port over a step: events are added at the end, input is taken from the front (spec/44_trap.md R139). -/

namespace Sys2Proof.Machine

/-- An instruction adds events to the end of the trace and takes input from its front; only a trap routine does either. -/
theorem Effect.trace_prefix_and_input_suffix {i : Instr} {s t : State} (he : Effect i s t) :
    s.trace <+: t.trace ∧ t.input <:+ s.input := by
  cases he with
  | routine r =>
    obtain ⟨-, -, -, -, -, -, -, htrace, hinput, -⟩ := s.trapEntry.runRoutine_frame r
    exact ⟨htrace, hinput⟩
  | dest | store | jump | linkJump | unknownVector | reserved => exact ⟨List.prefix_rfl, List.suffix_rfl⟩

/-- So does going on inside a routine. -/
theorem State.resume_trace_prefix_and_input_suffix (s : State) : s.trace <+: s.resume.trace ∧ s.resume.input <:+ s.input := by
  obtain ⟨_, evs, _, _, _, hinput, h⟩ := s.resume_eq
  rw [h]
  exact ⟨List.prefix_append s.trace evs, hinput⟩

/-- Settles O48: the guard leaves the port alone, and the end of a step leaves what the instruction or the routine did to it. -/
theorem stepExtendsTraceAndConsumesInput : Obligations.StepExtendsTraceAndConsumesInput := by
  intro s t hstep
  have hport : s.trace <+: t.trace ∧ t.input <:+ s.input := by
    obtain ⟨-, ⟨-, -, rfl⟩ | ⟨-, -, u, hexec, rfl⟩ | ⟨-, rfl⟩⟩ := step_cases hstep
    · exact ⟨List.prefix_rfl, List.suffix_rfl⟩
    · simpa using (effect_of_exec hexec).trace_prefix_and_input_suffix
    · simpa using s.resume_trace_prefix_and_input_suffix
  obtain ⟨htrace, hinput⟩ := hport
  exact ⟨htrace, hinput, step_params hstep⟩

end Sys2Proof.Machine
end

section
/-! PROOFS. RES and RTI: the row fixes what a word decodes to, and each instruction is the raise of its fault and nothing else
(spec/45_reserved.md R141, R142; spec/60_exceptions.md R145). -/

namespace Sys2Proof.Machine

open Sys2Proof.Claims

/-! ## The raise of a fault -/

/-- The raise writes the run state and the fault record, and leaves every register and every other field. -/
theorem State.faults_raiseFault (s : State) (c : FaultCause) : Faults s (s.raiseFault c) c [] := by
  have hrecord := s.raiseFault_fault c
  exact ⟨s.raiseFault_runState c, by rw [hrecord], by rw [hrecord], by rw [hrecord], fun r _ => s.raiseFault_reg c r,
    s.raiseFault_cond c, s.raiseFault_pc c, fun a => by rw [s.raiseFault_mem c],
    ⟨s.raiseFault_trace c, s.raiseFault_input c, s.raiseFault_activity c⟩, s.raiseFault_ir c, s.raiseFault_params c⟩

/-! ## The instructions -/

theorem exec_res (s : State) : exec .res s = .next (s.raiseFault .res) := rfl

theorem exec_rti (s : State) : exec .rti s = .next (s.raiseFault .rti) := rfl

/-! ## The statements -/

/-- Settles O34: a RES word decodes by its opcode alone, and RES is the raise of its fault. -/
theorem resFaults : Obligations.ResFaults :=
  ⟨fun _ hrow => (InRow.res hrow).decode_eq, fun s => ⟨_, exec_res s, s.faults_raiseFault .res⟩⟩

/-- Settles O35: an RTI word decodes by its opcode alone, and RTI is the raise of its fault. -/
theorem rtiFaults : Obligations.RtiFaults :=
  ⟨fun _ hrow => (InRow.rti hrow).decode_eq, fun s => ⟨_, exec_rti s, s.faults_raiseFault .rti⟩⟩

end Sys2Proof.Machine
end

section
/-! PROOFS. The faults: which instructions raise one and what the record then holds, the words that decode to them, and what the host
observes in FAULTED (spec/60_exceptions.md R144 to R148). -/

namespace Sys2Proof.Machine

open Sys2Proof.Claims

/-! ## Which instructions fault -/

/-- The instructions that fault, each with the cause it raises (60_exceptions.md R144). -/
inductive Raises : Instr → FaultCause → Prop
  | res : Raises .res .res
  | rti : Raises .rti .rti
  | trap {v : BitVec 8} (hv : UnknownVector v) : Raises (.trap v) .trapUnknown

/-- No instruction raises REG_INDEX (60_exceptions.md R147). -/
theorem Raises.ne_regIndex {i : Instr} {c : FaultCause} (hc : Raises i c) : c ≠ .regIndex := by
  cases hc <;> decide

/-- A raised fault fills the record with its cause, the address before the post-increment PC and the instruction word (R145). -/
theorem Raises.faulted_and_record {i : Instr} {c : FaultCause} (hc : Raises i c) {s t : State} (h : exec i s = .next t) :
    t.runState = .faulted ∧ t.fault = { cause := c, pc := s.pc - 1#16, word := s.ir } := by
  cases hc with
  | res => cases h; exact ⟨rfl, rfl⟩
  | rti => cases h; exact ⟨rfl, rfl⟩
  | trap hv =>
    rw [exec_trap_of_unknown hv] at h
    cases h
    exact ⟨rfl, rfl⟩

/-- No fault occurs inside a routine (60_exceptions.md R152). -/
theorem State.runRoutine_not_faulted_and_fault_eq {s : State} (hrun : s.runState = .running) (r : Routine) :
    (s.trapEntry.runRoutine r).runState ≠ .faulted ∧ (s.trapEntry.runRoutine r).fault = s.fault := by
  obtain ⟨-, -, -, -, hstate, hfault, -⟩ := s.trapEntry.runRoutine_frame r
  refine ⟨?_, hfault⟩
  rw [hstate, s.trapEntry_runState, hrun]
  split <;> decide

/-- No other instruction faults, and none of them touches the record (60_exceptions.md R148). -/
theorem not_faulted_and_fault_eq_of_not_raises {i : Instr} (hno : ∀ c, ¬ Raises i c) {s t : State} (hrun : s.runState = .running)
    (h : exec i s = .next t) : t.runState ≠ .faulted ∧ t.fault = s.fault := by
  have hstays : s.runState ≠ .faulted := by simp [hrun]
  cases i with
  | res => exact absurd .res (hno _)
  | rti => exact absurd .rti (hno _)
  | trap v =>
    cases hr : routineOfVector v with
    | none => exact absurd (.trap ((routineOfVector_eq_none_iff v).1 hr)) (hno _)
    | some r =>
      rw [exec_trap_of_routine hr] at h
      cases h
      exact State.runRoutine_not_faulted_and_fault_eq hrun r
  | getc => cases h; exact State.runRoutine_not_faulted_and_fault_eq hrun .getc
  | out => cases h; exact State.runRoutine_not_faulted_and_fault_eq hrun .out
  | puts => cases h; exact State.runRoutine_not_faulted_and_fault_eq hrun .puts
  | inEcho => cases h; exact State.runRoutine_not_faulted_and_fault_eq hrun .inEcho
  | putsp => cases h; exact State.runRoutine_not_faulted_and_fault_eq hrun .putsp
  | halt => cases h; exact State.runRoutine_not_faulted_and_fault_eq hrun .halt
  | br n z p off =>
    cases (execBr_eq_jumpTo n z p off s).symm.trans h
    exact ⟨hstays, rfl⟩
  | addReg | addImm | andReg | andImm | not | ld | ldi | ldr | lea | st | sti | str | jmp | ret | jsr | jsrr =>
    cases h; exact ⟨hstays, rfl⟩

/-- From a RUNNING block, an instruction ends in FAULTED exactly if it is one that faults. -/
theorem faulted_iff_raises {i : Instr} {s t : State} (hrun : s.runState = .running) (h : exec i s = .next t) :
    t.runState = .faulted ↔ ∃ c, Raises i c := by
  constructor
  · intro hfaulted
    by_contra hno
    exact (not_faulted_and_fault_eq_of_not_raises (not_exists.1 hno) hrun h).1 hfaulted
  · rintro ⟨c, hc⟩
    exact (hc.faulted_and_record h).1

/-! ## The words of the faulting instructions -/

/-- The decoder spells a TRAP by its vector only for the vector it read. -/
theorem eq_of_decodeTrap_eq_trap {x v : BitVec 8} (h : decodeTrap x = .trap v) : x = v := by
  unfold decodeTrap at h
  split at h
  next r _ => cases r <;> cases h
  next => cases h; rfl

/-- The words that decode to a faulting instruction, with the cause of each (60_exceptions.md R144). -/
theorem raises_decode_iff (w : Word) (c : FaultCause) : Raises (decode w) c ↔
    (c = .res ∧ w &&& 0xF000#16 = 0xD000#16) ∨ (c = .rti ∧ w &&& 0xF000#16 = 0x8000#16) ∨
      (c = .trapUnknown ∧ w &&& 0xF000#16 = 0xF000#16 ∧ UnknownVector (w.extractLsb' 0 8)) := by
  constructor
  · intro hc
    have hrow := (inRow_decode w).matches_rowOf
    generalize hi : decode w = i at hc hrow
    cases hc with
    | res => exact .inl ⟨rfl, hrow⟩
    | rti => exact .inr (.inl ⟨rfl, hrow⟩)
    | trap hv =>
      have hvector := eq_of_decodeTrap_eq_trap ((InRow.trap hrow).decode_eq.symm.trans hi)
      exact .inr (.inr ⟨rfl, hrow, hvector ▸ hv⟩)
  · rintro (⟨rfl, hrow⟩ | ⟨rfl, hrow⟩ | ⟨rfl, hrow, hv⟩)
    · rw [(InRow.res hrow).decode_eq]; exact .res
    · rw [(InRow.rti hrow).decode_eq]; exact .rti
    · rw [(InRow.trap hrow).decode_eq, decodeTrap_of_unknown hv]; exact .trap hv

/-- The code of the cause a word raises is that of its opcode. -/
theorem code_of_raises_decode {w : Word} {c : FaultCause} (hc : Raises (decode w) c) :
    c.code = if w &&& 0xF000#16 = 0xD000#16 then 1 else if w &&& 0xF000#16 = 0x8000#16 then 2 else 3 := by
  rcases (raises_decode_iff w c).1 hc with ⟨rfl, hrow⟩ | ⟨rfl, hrow⟩ | ⟨rfl, hrow, -⟩ <;> simp [hrow, FaultCause.code]

/-! ## The observation in FAULTED -/

/-- What the host observes of a FAULTED block (60_exceptions.md R146). -/
theorem State.observation_of_faulted {s : State} (h : s.runState = .faulted) :
    s.observation = { events := s.trace, status := (.faulted, some s.fault), view := none } := by
  simp [State.observation, State.status, h]

/-! ## The statements -/

/-- Settles O36: the fetched instruction faults exactly if it is RES, RTI or an unknown TRAP, whose words the rows tell, and the
fetch has put the address after its own into PC and the word into IR. -/
theorem faultExactlyOnFatalWords : Obligations.FaultExactlyOnFatalWords := by
  intro s hfetch
  have hrun : s.fetch.runState = .running := hfetch.1
  obtain ⟨u, hu, -⟩ := exec_effect (decode s.fetch.ir) s.fetch
  have hstep : step s = .next u.retire := by rw [step_of_fetches hfetch, hu, onNext_next]
  have hiff := faulted_iff_raises hrun hu
  refine ⟨u.retire, hstep, ?_⟩
  rw [State.retire_runState, State.retire_fault]
  refine ⟨?_, fun hfaulted => ?_, fun hnot => ?_⟩
  · rw [hiff]
    simp [raises_decode_iff, exists_or]
  · obtain ⟨c, hc⟩ := hiff.1 hfaulted
    rw [(hc.faulted_and_record hu).2]
    exact ⟨BitVec.add_sub_cancel s.pc 1#16, rfl, code_of_raises_decode hc⟩
  · exact (not_faulted_and_fault_eq_of_not_raises (not_exists.1 (mt hiff.2 hnot)) hrun hu).2

/-- Settles O37: only the three faulting instructions write the record, each with a cause of its own. -/
theorem regIndexNeverRaised : Obligations.RegIndexNeverRaised := by
  intro s t hstep hcause
  obtain ⟨hrun, ⟨-, -, rfl⟩ | ⟨-, -, u, hu, rfl⟩ | ⟨-, rfl⟩⟩ := step_cases hstep
  · exact hcause
  · rw [State.retire_fault] at hcause
    by_cases hraises : ∃ c, Raises (decode s.fetch.ir) c
    · obtain ⟨c, hc⟩ := hraises
      rw [(hc.faulted_and_record hu).2] at hcause
      exact absurd hcause hc.ne_regIndex
    · rwa [(not_faulted_and_fault_eq_of_not_raises (s := s.fetch) (not_exists.1 hraises) hrun hu).2] at hcause
  · rwa [State.retire_fault, State.resume_fault] at hcause

/-- Settles O38: in FAULTED the observation is made of the trace and the record. -/
theorem faultedShowsRecordAndTraceOnly : Obligations.FaultedShowsRecordAndTraceOnly := by
  intro s t hs ht hfault htrace
  rw [State.observation_of_faulted hs, State.observation_of_faulted ht, hfault, htrace]
  exact ⟨rfl, rfl, rfl⟩

end Sys2Proof.Machine
end

section
/-! PROOFS. The launch memory: what placing words at consecutive addresses does to a read and to the canonical form
(spec/70_reset_and_hazards.md R170). -/

namespace Sys2Proof.Machine

open Sys2Proof.Claims

/-! ## Placing words -/

/-- Placing words is a run of writes, so it keeps the canonical form. -/
theorem Memory.wf_placeWords {m : Memory} (hm : m.wf) (a : Word) (ws : List Word) : (placeWords m a ws).wf := by
  induction ws generalizing m a with
  | nil => exact hm
  | cons w ws ih => exact ih (Memory.wf_write hm a w) (a + 1#16)

/-- The address after the `i`-th from `a` on is the `i`-th from the next address on. -/
theorem add_ofNat_succ (a : Word) (i : Nat) : a + BitVec.ofNat 16 (i + 1) = a + 1#16 + BitVec.ofNat 16 i := by
  rw [Nat.add_comm, BitVec.ofNat_add, BitVec.add_assoc]

/-- An address that is none of the placed words' keeps its word. -/
theorem placeWords_read_of_ne {m : Memory} {a b : Word} {ws : List Word} (hb : ∀ i < ws.length, b ≠ a + BitVec.ofNat 16 i) :
    (placeWords m a ws).read b = m.read b := by
  induction ws generalizing m a with
  | nil => rfl
  | cons w ws ih =>
    have hfirst : b ≠ a := by simpa using hb 0 (Nat.zero_lt_succ _)
    have hrest : ∀ i < ws.length, b ≠ a + 1#16 + BitVec.ofNat 16 i := fun i hi =>
      add_ofNat_succ a i ▸ hb (i + 1) (Nat.succ_lt_succ hi)
    rw [placeWords, ih hrest, Memory.read_write, if_neg hfirst]

/-- Each word stands at its own address, since at most 65536 words do not come round to the first again. -/
theorem placeWords_read_getElem {m : Memory} {a : Word} {ws : List Word} (hlen : ws.length ≤ 65536) {i : Nat} (hi : i < ws.length) :
    (placeWords m a ws).read (a + BitVec.ofNat 16 i) = ws[i] := by
  induction ws generalizing m a i with
  | nil => cases hi
  | cons w ws ih =>
    rw [List.length_cons] at hlen hi
    cases i with
    | zero =>
      have hkeep : ∀ j < ws.length, a ≠ a + 1#16 + BitVec.ofNat 16 j := fun j hj => by bv_omega
      simp [placeWords, placeWords_read_of_ne hkeep]
    | succ i =>
      rw [placeWords, add_ofNat_succ a i]
      exact ih (Nat.le_of_succ_le hlen) (Nat.lt_of_succ_lt_succ hi)

/-! ## The statement -/

@[simp] theorem Memory.read_empty (a : Word) : Memory.read { cells := [] } a = 0#16 := rfl

/-- Settles O51: the stream is read as its words, which are placed in the empty memory. -/
theorem launchMemoryHoldsImage : Obligations.LaunchMemoryHoldsImage := by
  intro o ws hfit
  have hload : loadImage (some ((o :: ws).flatMap bigEndian)) = .ok { origin := o, mem := placeWords { cells := [] } o ws } := by
    rw [loadImage_flatMap_bigEndian, loadWords, if_neg (Nat.not_lt.2 hfit)]
  refine ⟨_, hload, rfl, Memory.wf_placeWords Memory.wf_empty o ws, fun i hi => ?_, fun a ha => ?_⟩
  · have haddr : BitVec.ofNat 16 (o.toNat + i) = o + BitVec.ofNat 16 i := by
      rw [BitVec.ofNat_add, BitVec.ofNat_toNat, BitVec.setWidth_eq]
    rw [haddr, placeWords_read_getElem (by omega) hi]
  · have hout : ∀ i < ws.length, a ≠ o + BitVec.ofNat 16 i := fun i hi => by bv_omega
    rw [placeWords_read_of_ne hout, Memory.read_empty]

end Sys2Proof.Machine
end

section
/-! PROOFS. Reset: the state after a launch or a control reset, and the invariant there (spec/70_reset_and_hazards.md R162 to R167). -/

namespace Sys2Proof.Machine

/-- A control reset clears the general registers (R165). -/
@[simp] theorem State.controlReset_reg (s : State) (startPc : Word) (r : Reg) : (s.controlReset startPc).reg r = 0#16 :=
  State.launched_reg { s.params with startPc := startPc } s.mem r

/-- Settles O50: a control reset is a launch with the block's own memory and parameters, but for the input it keeps. -/
theorem resetState : Obligations.ResetState := by
  refine ⟨?_, rfl, rfl, Memory.read_empty, rfl, rfl⟩
  rintro p m s (rfl | ⟨u, rfl, rfl, hp⟩)
  · exact ⟨State.launched_reg p m, rfl, rfl, rfl, rfl, rfl, rfl, rfl⟩
  · have hcond : (u.controlReset p.startPc).cond = p.condReset := by rw [hp]; rfl
    exact ⟨u.controlReset_reg p.startPc, rfl, hcond, rfl, rfl, rfl, rfl, hp.symm⟩

/-- Settles O53: the state after reset is a launch with the empty memory, which has the canonical form. -/
theorem resetMeetsInv : Obligations.ResetMeetsInv :=
  State.launched_inv Params.default Memory.wf_empty

end Sys2Proof.Machine
end

section
/-! PROOFS. The word placed for the next fetch: the block is about to fetch, and what it fetches is that word
(spec/40_sequencer.md R96, spec/70_reset_and_hazards.md R168). -/

namespace Sys2Proof.Machine

open Sys2Proof.Claims

/-- A table word is decoded as the word it stands for. -/
theorem decode_tableWord {nbits w : Nat} {i : Instr} (h : decodeTableWord nbits w = some i) : decode (tableWord nbits w) = i := by
  unfold decodeTableWord at h
  split at h
  · exact Option.some.inj h
  · cases h

/-- After a word is placed the block is about to fetch: where the guard would fire it is switched off, and elsewhere it stays. -/
theorem State.fetches_placeNext (s : State) (w : Word) : Fetches (s.placeNext w) := by
  refine ⟨rfl, rfl, ?_⟩
  cases hguard : s.guardFires with
  | true => simp [State.placeNext, hguard]
  | false =>
    have hparams : (s.placeNext w).params = s.params := by simp [State.placeNext, hguard]
    have hnot : ¬ (s.params.topGuard = .atFFFF ∧ s.pc = 0xFFFF#16) := by simp [← s.guardFires_iff, hguard]
    rwa [hparams]

/-- The fetch reads the placed word into IR. -/
theorem State.placeNext_fetch_ir (s : State) (w : Word) : (s.placeNext w).fetch.ir = w := by
  simp [State.placeNext]

/-- Settles O56: the block fetches the placed word, which decodes to the instruction. -/
theorem placedWordRunsNext : Obligations.PlacedWordRunsNext := by
  intro s nbits w i hi
  have hfetch : Fetches (s.withFetchWord nbits w) := s.fetches_placeNext _
  have hir : (s.withFetchWord nbits w).fetch.ir = tableWord nbits w := s.placeNext_fetch_ir _
  refine ⟨hfetch, ?_⟩
  rw [step_of_fetches hfetch, hir, decode_tableWord hi]

end Sys2Proof.Machine
end

section
/-! PROOFS. The words of the rules' examples: each stands in its row of the opcode map, which fixes what it decodes to
(spec/30_encoding.md R79). -/

namespace Sys2Proof

/-- Settles O1: the row of each word is found by its mask, and the word's fields are those of the example. -/
theorem specWordsDecode : Obligations.SpecWordsDecode :=
  ⟨(InRow.addReg rfl).decode_eq, (InRow.addImm rfl).decode_eq, (InRow.andReg rfl).decode_eq, (InRow.not rfl).decode_eq,
    (InRow.br rfl).decode_eq, (InRow.jmp rfl).decode_eq, (InRow.jsr rfl).decode_eq, (InRow.jsrr rfl).decode_eq,
    (InRow.ld rfl).decode_eq, (InRow.str rfl).decode_eq, (InRow.trap rfl).decode_eq, (InRow.res rfl).decode_eq⟩

end Sys2Proof
end
